-- ==== Sys2Proof/Word.lean ====
section
/-! DEFINITION. The fixed widths of the ULM (rule R4) and the spec's conversions between patterns and integers (rules R5, R11). -/

namespace Sys2Proof

/-- "8 bits" (rule R18): one byte of memory, one operand byte. -/
abbrev Byte := BitVec 8

/-- A register name: one operand byte whose unsigned value is the register number (rule R21). -/
abbrev Reg := BitVec 8

/-- A quadword, "64 bits" (rule R18): the content of a register. -/
abbrev Quad := BitVec 64

/-- An address, "just a 64 bit pattern" (rule R9). -/
abbrev Addr := BitVec 64

/-- `pat_64(n)` of rule R11: the 64-bit pattern whose unsigned value is `n mod 2^64`, total on all integers. The unsigned
and signed values `u(v)`, `s(v)` of rule R5 are `v.toNat` and `v.toInt`. -/
def pat64 (n : Int) : Quad := BitVec.ofInt 64 n

end Sys2Proof
end

