-- ==== Sys2Proof/Syntax.lean ====
section
/-! DEFINITION. The instructions of the ULM: one constructor per row of the opcode table (rule R79), with the operands of
its format (rules R64 to R77). A constructor's docstring gives its opcode and its rule. -/

namespace Sys2Proof

/-- The fourteen operand formats (rules R64 to R77). -/
inductive Format where
  /-- R: register X (rule R64). -/
  | r
  /-- U8: unsigned immediate X (rule R65). -/
  | u8
  /-- RR: registers X, Y (rule R66). -/
  | rr
  /-- RRR: registers X, Y, Z (rule R67). -/
  | rrr
  /-- URR: unsigned immediate X, registers Y, Z (rule R68). -/
  | urr
  /-- SRR: signed immediate X, registers Y, Z (rule R69). -/
  | srr
  /-- U16R: unsigned immediate XY, register Z (rule R70). -/
  | u16r
  /-- S16R: signed immediate XY, register Z (rule R71). -/
  | s16r
  /-- S24: relative jump XYZ (rule R72). -/
  | s24
  /-- The empty format (rule R73). -/
  | empty
  /-- M(RR)R: load, base X, offset Y, destination Z (rule R74). -/
  | mrrr
  /-- M(SR)R: load, displacement X, base Y, destination Z (rule R75). -/
  | msrr
  /-- RM(RR): store, source X, base Y, offset Z (rule R76). -/
  | rmrr
  /-- RM(SR): store, source X, displacement Y, base Z (rule R77). -/
  | rmsr
deriving DecidableEq, Repr

/-- The 98 instructions. Register operands are register names; 8-bit and 16-bit immediates and displacements are the
operand bytes themselves, whose sign reading is the instruction's; the operand of a relative jump is its byte offset
`xyz = 4 * s(XYZ)`, "a (signed) 26 bit relative jump address" (rules R72, R83). -/
inductive Instr where
  /-- `halt`, opcode 0x01, rule R270. -/
  | haltReg (x : Reg)
  /-- `trap`, opcode 0x02, rule R280. -/
  | trap (x : Reg) (y : Reg) (z : Reg)
  /-- `halt`, opcode 0x09, rule R271. -/
  | haltImm (imm : Byte)
  /-- `movq`, opcode 0x10, rule R191. -/
  | movqLoadIndexed (base : Reg) (offset : Reg) (z : Reg)
  /-- `movzlq`, opcode 0x11, rule R196. -/
  | movzlqIndexed (base : Reg) (offset : Reg) (z : Reg)
  /-- `movzwq`, opcode 0x12, rule R201. -/
  | movzwqIndexed (base : Reg) (offset : Reg) (z : Reg)
  /-- `movzbq`, opcode 0x13, rule R206. -/
  | movzbqIndexed (base : Reg) (offset : Reg) (z : Reg)
  /-- `movslq`, opcode 0x15, rule R211. -/
  | movslqIndexed (base : Reg) (offset : Reg) (z : Reg)
  /-- `movswq`, opcode 0x16, rule R216. -/
  | movswqIndexed (base : Reg) (offset : Reg) (z : Reg)
  /-- `movsbq`, opcode 0x17, rule R221. -/
  | movsbqIndexed (base : Reg) (offset : Reg) (z : Reg)
  /-- `movq`, opcode 0x18, rule R192. -/
  | movqLoadDisp (disp : Byte) (base : Reg) (z : Reg)
  /-- `movzlq`, opcode 0x19, rule R197. -/
  | movzlqDisp (disp : Byte) (base : Reg) (z : Reg)
  /-- `movzwq`, opcode 0x1A, rule R202. -/
  | movzwqDisp (disp : Byte) (base : Reg) (z : Reg)
  /-- `movzbq`, opcode 0x1B, rule R207. -/
  | movzbqDisp (disp : Byte) (base : Reg) (z : Reg)
  /-- `movslq`, opcode 0x1D, rule R212. -/
  | movslqDisp (disp : Byte) (base : Reg) (z : Reg)
  /-- `movswq`, opcode 0x1E, rule R217. -/
  | movswqDisp (disp : Byte) (base : Reg) (z : Reg)
  /-- `movsbq`, opcode 0x1F, rule R222. -/
  | movsbqDisp (disp : Byte) (base : Reg) (z : Reg)
  /-- `movq`, opcode 0x20, rule R241. -/
  | movqStoreIndexed (x : Reg) (base : Reg) (offset : Reg)
  /-- `movl`, opcode 0x21, rule R246. -/
  | movlIndexed (x : Reg) (base : Reg) (offset : Reg)
  /-- `movw`, opcode 0x22, rule R251. -/
  | movwIndexed (x : Reg) (base : Reg) (offset : Reg)
  /-- `movb`, opcode 0x23, rule R256. -/
  | movbIndexed (x : Reg) (base : Reg) (offset : Reg)
  /-- `movq`, opcode 0x28, rule R242. -/
  | movqStoreDisp (x : Reg) (disp : Byte) (base : Reg)
  /-- `movl`, opcode 0x29, rule R247. -/
  | movlDisp (x : Reg) (disp : Byte) (base : Reg)
  /-- `movw`, opcode 0x2A, rule R252. -/
  | movwDisp (x : Reg) (disp : Byte) (base : Reg)
  /-- `movb`, opcode 0x2B, rule R257. -/
  | movbDisp (x : Reg) (disp : Byte) (base : Reg)
  /-- `addq`, opcode 0x30, rule R102. -/
  | addqReg (x : Reg) (y : Reg) (z : Reg)
  /-- `subq`, opcode 0x31, rule R104. -/
  | subqReg (x : Reg) (y : Reg) (z : Reg)
  /-- `mulq`, opcode 0x32, rule R106. -/
  | mulqReg (x : Reg) (y : Reg) (z : Reg)
  /-- `divq`, opcode 0x33, rule R108. -/
  | divqReg (x : Reg) (y : Reg) (z : Reg)
  /-- `imulq`, opcode 0x34, rule R110. -/
  | imulqReg (x : Reg) (y : Reg) (z : Reg)
  /-- `idivq`, opcode 0x35, rule R112. -/
  | idivqReg (x : Reg) (y : Reg) (z : Reg)
  /-- `addq`, opcode 0x38, rule R103. -/
  | addqImm (imm : Byte) (y : Reg) (z : Reg)
  /-- `subq`, opcode 0x39, rule R105. -/
  | subqImm (imm : Byte) (y : Reg) (z : Reg)
  /-- `mulq`, opcode 0x3A, rule R107. -/
  | mulqImm (imm : Byte) (y : Reg) (z : Reg)
  /-- `divq`, opcode 0x3B, rule R109. -/
  | divqImm (imm : Byte) (y : Reg) (z : Reg)
  /-- `imulq`, opcode 0x3C, rule R111. -/
  | imulqImm (imm : Byte) (y : Reg) (z : Reg)
  /-- `idivq`, opcode 0x3D, rule R113. -/
  | idivqImm (imm : Byte) (y : Reg) (z : Reg)
  /-- `jmp`, opcode 0x40, rule R161. -/
  | jmpReg (x : Reg) (y : Reg)
  /-- `jmp`, opcode 0x41, rule R162. -/
  | jmpRel (rel : BitVec 26)
  /-- `je`, opcode 0x42, rule R163. -/
  | je (rel : BitVec 26)
  /-- `jne`, opcode 0x43, rule R164. -/
  | jne (rel : BitVec 26)
  /-- `jl`, opcode 0x44, rule R165. -/
  | jl (rel : BitVec 26)
  /-- `jge`, opcode 0x45, rule R166. -/
  | jge (rel : BitVec 26)
  /-- `jle`, opcode 0x46, rule R167. -/
  | jle (rel : BitVec 26)
  /-- `jg`, opcode 0x47, rule R168. -/
  | jg (rel : BitVec 26)
  /-- `jb`, opcode 0x48, rule R169. -/
  | jb (rel : BitVec 26)
  /-- `jae`, opcode 0x49, rule R170. -/
  | jae (rel : BitVec 26)
  /-- `jna`, opcode 0x4A, rule R171. -/
  | jna (rel : BitVec 26)
  /-- `ja`, opcode 0x4B, rule R172. -/
  | ja (rel : BitVec 26)
  /-- `orq`, opcode 0x50, rule R131. -/
  | orq (x : Reg) (y : Reg) (z : Reg)
  /-- `andq`, opcode 0x51, rule R130. -/
  | andq (x : Reg) (y : Reg) (z : Reg)
  /-- `shlq`, opcode 0x52, rule R133. -/
  | shlqReg (x : Reg) (y : Reg) (z : Reg)
  /-- `shrq`, opcode 0x53, rule R135. -/
  | shrqReg (x : Reg) (y : Reg) (z : Reg)
  /-- `sarq`, opcode 0x54, rule R137. -/
  | sarqReg (x : Reg) (y : Reg) (z : Reg)
  /-- `ldzwq`, opcode 0x56, rule R150. -/
  | ldzwq (imm : BitVec 16) (z : Reg)
  /-- `ldsq`, opcode 0x57, rule R151. -/
  | ldsq (imm : BitVec 16) (z : Reg)
  /-- `shlq`, opcode 0x5A, rule R134. -/
  | shlqImm (imm : Byte) (y : Reg) (z : Reg)
  /-- `shrq`, opcode 0x5B, rule R136. -/
  | shrqImm (imm : Byte) (y : Reg) (z : Reg)
  /-- `sarq`, opcode 0x5C, rule R138. -/
  | sarqImm (imm : Byte) (y : Reg) (z : Reg)
  /-- `shldwq`, opcode 0x5D, rule R152. -/
  | shldwq (imm : BitVec 16) (z : Reg)
  /-- `notq`, opcode 0x5E, rule R132. -/
  | notq (x : Reg) (y : Reg)
  /-- `getc`, opcode 0x60, rule R272. -/
  | getc (x : Reg)
  /-- `putc`, opcode 0x61, rule R273. -/
  | putcReg (x : Reg)
  /-- `putc`, opcode 0x69, rule R274. -/
  | putcImm (imm : Byte)
  /-- `movq`, opcode 0x80, rule R193. -/
  | movqLoadScaled2 (base : Reg) (offset : Reg) (z : Reg)
  /-- `movzlq`, opcode 0x81, rule R198. -/
  | movzlqScaled2 (base : Reg) (offset : Reg) (z : Reg)
  /-- `movzwq`, opcode 0x82, rule R203. -/
  | movzwqScaled2 (base : Reg) (offset : Reg) (z : Reg)
  /-- `movzbq`, opcode 0x83, rule R208. -/
  | movzbqScaled2 (base : Reg) (offset : Reg) (z : Reg)
  /-- `movslq`, opcode 0x85, rule R213. -/
  | movslqScaled2 (base : Reg) (offset : Reg) (z : Reg)
  /-- `movswq`, opcode 0x86, rule R218. -/
  | movswqScaled2 (base : Reg) (offset : Reg) (z : Reg)
  /-- `movsbq`, opcode 0x87, rule R223. -/
  | movsbqScaled2 (base : Reg) (offset : Reg) (z : Reg)
  /-- `movq`, opcode 0x90, rule R243. -/
  | movqStoreScaled2 (x : Reg) (base : Reg) (offset : Reg)
  /-- `movl`, opcode 0x91, rule R248. -/
  | movlScaled2 (x : Reg) (base : Reg) (offset : Reg)
  /-- `movw`, opcode 0x92, rule R253. -/
  | movwScaled2 (x : Reg) (base : Reg) (offset : Reg)
  /-- `movb`, opcode 0x93, rule R258. -/
  | movbScaled2 (x : Reg) (base : Reg) (offset : Reg)
  /-- `movq`, opcode 0xA0, rule R194. -/
  | movqLoadScaled4 (base : Reg) (offset : Reg) (z : Reg)
  /-- `movzlq`, opcode 0xA1, rule R199. -/
  | movzlqScaled4 (base : Reg) (offset : Reg) (z : Reg)
  /-- `movzwq`, opcode 0xA2, rule R204. -/
  | movzwqScaled4 (base : Reg) (offset : Reg) (z : Reg)
  /-- `movzbq`, opcode 0xA3, rule R209. -/
  | movzbqScaled4 (base : Reg) (offset : Reg) (z : Reg)
  /-- `movslq`, opcode 0xA5, rule R214. -/
  | movslqScaled4 (base : Reg) (offset : Reg) (z : Reg)
  /-- `movswq`, opcode 0xA6, rule R219. -/
  | movswqScaled4 (base : Reg) (offset : Reg) (z : Reg)
  /-- `movsbq`, opcode 0xA7, rule R224. -/
  | movsbqScaled4 (base : Reg) (offset : Reg) (z : Reg)
  /-- `movq`, opcode 0xB0, rule R244. -/
  | movqStoreScaled4 (x : Reg) (base : Reg) (offset : Reg)
  /-- `movl`, opcode 0xB1, rule R249. -/
  | movlScaled4 (x : Reg) (base : Reg) (offset : Reg)
  /-- `movw`, opcode 0xB2, rule R254. -/
  | movwScaled4 (x : Reg) (base : Reg) (offset : Reg)
  /-- `movb`, opcode 0xB3, rule R259. -/
  | movbScaled4 (x : Reg) (base : Reg) (offset : Reg)
  /-- `movq`, opcode 0xC0, rule R195. -/
  | movqLoadScaled8 (base : Reg) (offset : Reg) (z : Reg)
  /-- `movzlq`, opcode 0xC1, rule R200. -/
  | movzlqScaled8 (base : Reg) (offset : Reg) (z : Reg)
  /-- `movzwq`, opcode 0xC2, rule R205. -/
  | movzwqScaled8 (base : Reg) (offset : Reg) (z : Reg)
  /-- `movzbq`, opcode 0xC3, rule R210. -/
  | movzbqScaled8 (base : Reg) (offset : Reg) (z : Reg)
  /-- `movslq`, opcode 0xC5, rule R215. -/
  | movslqScaled8 (base : Reg) (offset : Reg) (z : Reg)
  /-- `movswq`, opcode 0xC6, rule R220. -/
  | movswqScaled8 (base : Reg) (offset : Reg) (z : Reg)
  /-- `movsbq`, opcode 0xC7, rule R225. -/
  | movsbqScaled8 (base : Reg) (offset : Reg) (z : Reg)
  /-- `movq`, opcode 0xD0, rule R245. -/
  | movqStoreScaled8 (x : Reg) (base : Reg) (offset : Reg)
  /-- `movl`, opcode 0xD1, rule R250. -/
  | movlScaled8 (x : Reg) (base : Reg) (offset : Reg)
  /-- `movw`, opcode 0xD2, rule R255. -/
  | movwScaled8 (x : Reg) (base : Reg) (offset : Reg)
  /-- `movb`, opcode 0xD3, rule R260. -/
  | movbScaled8 (x : Reg) (base : Reg) (offset : Reg)
  /-- `nop`, opcode 0xFF, rule R275. -/
  | nop
deriving DecidableEq, Repr

namespace Instr

/-- The format of an instruction (the table of rule R79). -/
def format : Instr → Format
  | .haltReg .. => .r
  | .trap .. => .rrr
  | .haltImm .. => .u8
  | .movqLoadIndexed .. => .mrrr
  | .movzlqIndexed .. => .mrrr
  | .movzwqIndexed .. => .mrrr
  | .movzbqIndexed .. => .mrrr
  | .movslqIndexed .. => .mrrr
  | .movswqIndexed .. => .mrrr
  | .movsbqIndexed .. => .mrrr
  | .movqLoadDisp .. => .msrr
  | .movzlqDisp .. => .msrr
  | .movzwqDisp .. => .msrr
  | .movzbqDisp .. => .msrr
  | .movslqDisp .. => .msrr
  | .movswqDisp .. => .msrr
  | .movsbqDisp .. => .msrr
  | .movqStoreIndexed .. => .rmrr
  | .movlIndexed .. => .rmrr
  | .movwIndexed .. => .rmrr
  | .movbIndexed .. => .rmrr
  | .movqStoreDisp .. => .rmsr
  | .movlDisp .. => .rmsr
  | .movwDisp .. => .rmsr
  | .movbDisp .. => .rmsr
  | .addqReg .. => .rrr
  | .subqReg .. => .rrr
  | .mulqReg .. => .rrr
  | .divqReg .. => .rrr
  | .imulqReg .. => .rrr
  | .idivqReg .. => .rrr
  | .addqImm .. => .urr
  | .subqImm .. => .urr
  | .mulqImm .. => .urr
  | .divqImm .. => .urr
  | .imulqImm .. => .srr
  | .idivqImm .. => .srr
  | .jmpReg .. => .rr
  | .jmpRel .. => .s24
  | .je .. => .s24
  | .jne .. => .s24
  | .jl .. => .s24
  | .jge .. => .s24
  | .jle .. => .s24
  | .jg .. => .s24
  | .jb .. => .s24
  | .jae .. => .s24
  | .jna .. => .s24
  | .ja .. => .s24
  | .orq .. => .rrr
  | .andq .. => .rrr
  | .shlqReg .. => .rrr
  | .shrqReg .. => .rrr
  | .sarqReg .. => .rrr
  | .ldzwq .. => .u16r
  | .ldsq .. => .s16r
  | .shlqImm .. => .urr
  | .shrqImm .. => .urr
  | .sarqImm .. => .urr
  | .shldwq .. => .u16r
  | .notq .. => .rr
  | .getc .. => .r
  | .putcReg .. => .r
  | .putcImm .. => .u8
  | .movqLoadScaled2 .. => .mrrr
  | .movzlqScaled2 .. => .mrrr
  | .movzwqScaled2 .. => .mrrr
  | .movzbqScaled2 .. => .mrrr
  | .movslqScaled2 .. => .mrrr
  | .movswqScaled2 .. => .mrrr
  | .movsbqScaled2 .. => .mrrr
  | .movqStoreScaled2 .. => .rmrr
  | .movlScaled2 .. => .rmrr
  | .movwScaled2 .. => .rmrr
  | .movbScaled2 .. => .rmrr
  | .movqLoadScaled4 .. => .mrrr
  | .movzlqScaled4 .. => .mrrr
  | .movzwqScaled4 .. => .mrrr
  | .movzbqScaled4 .. => .mrrr
  | .movslqScaled4 .. => .mrrr
  | .movswqScaled4 .. => .mrrr
  | .movsbqScaled4 .. => .mrrr
  | .movqStoreScaled4 .. => .rmrr
  | .movlScaled4 .. => .rmrr
  | .movwScaled4 .. => .rmrr
  | .movbScaled4 .. => .rmrr
  | .movqLoadScaled8 .. => .mrrr
  | .movzlqScaled8 .. => .mrrr
  | .movzwqScaled8 .. => .mrrr
  | .movzbqScaled8 .. => .mrrr
  | .movslqScaled8 .. => .mrrr
  | .movswqScaled8 .. => .mrrr
  | .movsbqScaled8 .. => .mrrr
  | .movqStoreScaled8 .. => .rmrr
  | .movlScaled8 .. => .rmrr
  | .movwScaled8 .. => .rmrr
  | .movbScaled8 .. => .rmrr
  | .nop => .empty

end Instr

end Sys2Proof
end

