-- ==== Sys2Proof/WellFormed.lean ====
section
/-! DEFINITION. Which instructions are well formed. Every 8-bit value is a legal register number and every immediate of
its format's width is legal (section 3 of the encoding file), so the operands' types say all there is to say but for the
relative jumps: their byte offset must be a multiple of 4 (rules R72, R83). -/

namespace Sys2Proof

/-- A relative jump's byte offset is a multiple of 4: its two low bits are 0 (rule R72: "the offset s(XYZ) * 4 in bytes"). -/
def relWellFormed (rel : BitVec 26) : Bool := rel.extractLsb' 0 2 == 0#2

/-- Well-formedness: the check `relWellFormed` on the eleven instructions of format S24, no check elsewhere. -/
def Instr.wellFormed : Instr → Bool
  | .haltReg .. => true
  | .trap .. => true
  | .haltImm .. => true
  | .movqLoadIndexed .. => true
  | .movzlqIndexed .. => true
  | .movzwqIndexed .. => true
  | .movzbqIndexed .. => true
  | .movslqIndexed .. => true
  | .movswqIndexed .. => true
  | .movsbqIndexed .. => true
  | .movqLoadDisp .. => true
  | .movzlqDisp .. => true
  | .movzwqDisp .. => true
  | .movzbqDisp .. => true
  | .movslqDisp .. => true
  | .movswqDisp .. => true
  | .movsbqDisp .. => true
  | .movqStoreIndexed .. => true
  | .movlIndexed .. => true
  | .movwIndexed .. => true
  | .movbIndexed .. => true
  | .movqStoreDisp .. => true
  | .movlDisp .. => true
  | .movwDisp .. => true
  | .movbDisp .. => true
  | .addqReg .. => true
  | .subqReg .. => true
  | .mulqReg .. => true
  | .divqReg .. => true
  | .imulqReg .. => true
  | .idivqReg .. => true
  | .addqImm .. => true
  | .subqImm .. => true
  | .mulqImm .. => true
  | .divqImm .. => true
  | .imulqImm .. => true
  | .idivqImm .. => true
  | .jmpReg .. => true
  | .jmpRel rel => relWellFormed rel
  | .je rel => relWellFormed rel
  | .jne rel => relWellFormed rel
  | .jl rel => relWellFormed rel
  | .jge rel => relWellFormed rel
  | .jle rel => relWellFormed rel
  | .jg rel => relWellFormed rel
  | .jb rel => relWellFormed rel
  | .jae rel => relWellFormed rel
  | .jna rel => relWellFormed rel
  | .ja rel => relWellFormed rel
  | .orq .. => true
  | .andq .. => true
  | .shlqReg .. => true
  | .shrqReg .. => true
  | .sarqReg .. => true
  | .ldzwq .. => true
  | .ldsq .. => true
  | .shlqImm .. => true
  | .shrqImm .. => true
  | .sarqImm .. => true
  | .shldwq .. => true
  | .notq .. => true
  | .getc .. => true
  | .putcReg .. => true
  | .putcImm .. => true
  | .movqLoadScaled2 .. => true
  | .movzlqScaled2 .. => true
  | .movzwqScaled2 .. => true
  | .movzbqScaled2 .. => true
  | .movslqScaled2 .. => true
  | .movswqScaled2 .. => true
  | .movsbqScaled2 .. => true
  | .movqStoreScaled2 .. => true
  | .movlScaled2 .. => true
  | .movwScaled2 .. => true
  | .movbScaled2 .. => true
  | .movqLoadScaled4 .. => true
  | .movzlqScaled4 .. => true
  | .movzwqScaled4 .. => true
  | .movzbqScaled4 .. => true
  | .movslqScaled4 .. => true
  | .movswqScaled4 .. => true
  | .movsbqScaled4 .. => true
  | .movqStoreScaled4 .. => true
  | .movlScaled4 .. => true
  | .movwScaled4 .. => true
  | .movbScaled4 .. => true
  | .movqLoadScaled8 .. => true
  | .movzlqScaled8 .. => true
  | .movzwqScaled8 .. => true
  | .movzbqScaled8 .. => true
  | .movslqScaled8 .. => true
  | .movswqScaled8 .. => true
  | .movsbqScaled8 .. => true
  | .movqStoreScaled8 .. => true
  | .movlScaled8 .. => true
  | .movwScaled8 .. => true
  | .movbScaled8 .. => true
  | .nop => true

end Sys2Proof
end

