-- ==== Sys2Proof/Decode.lean ====
section
/-! DEFINITION. The decoder, total on any bytes, and the encoder, both written from the opcode map of rule R79 and the
formats of rules R63 to R77; the reading of a table word; the test of unused operand bytes (rule R81). -/

namespace Sys2Proof

/-- Why bytes are no instruction. -/
inductive DecodeError where
  /-- The opcode byte is one of the 158 values no section defines (rule R80). -/
  | undefinedOpcode (op : Byte)
  /-- Fewer than the 4 bytes every instruction has (rule R63). -/
  | truncated
deriving DecidableEq, Repr

/-- The instruction of the bytes Op, X, Y, Z (rules R63 to R79). Operand bytes the format does not use are not looked at
(rule R81, UNUSED_FIELDS = ignore; see `unusedBytesZero` for the other choice). -/
def decodeFields (op x y z : Byte) : Except DecodeError Instr :=
  match op with
  | 0x01#8 => .ok (.haltReg x)
  | 0x02#8 => .ok (.trap x y z)
  | 0x09#8 => .ok (.haltImm x)
  | 0x10#8 => .ok (.movqLoadIndexed x y z)
  | 0x11#8 => .ok (.movzlqIndexed x y z)
  | 0x12#8 => .ok (.movzwqIndexed x y z)
  | 0x13#8 => .ok (.movzbqIndexed x y z)
  | 0x15#8 => .ok (.movslqIndexed x y z)
  | 0x16#8 => .ok (.movswqIndexed x y z)
  | 0x17#8 => .ok (.movsbqIndexed x y z)
  | 0x18#8 => .ok (.movqLoadDisp x y z)
  | 0x19#8 => .ok (.movzlqDisp x y z)
  | 0x1A#8 => .ok (.movzwqDisp x y z)
  | 0x1B#8 => .ok (.movzbqDisp x y z)
  | 0x1D#8 => .ok (.movslqDisp x y z)
  | 0x1E#8 => .ok (.movswqDisp x y z)
  | 0x1F#8 => .ok (.movsbqDisp x y z)
  | 0x20#8 => .ok (.movqStoreIndexed x y z)
  | 0x21#8 => .ok (.movlIndexed x y z)
  | 0x22#8 => .ok (.movwIndexed x y z)
  | 0x23#8 => .ok (.movbIndexed x y z)
  | 0x28#8 => .ok (.movqStoreDisp x y z)
  | 0x29#8 => .ok (.movlDisp x y z)
  | 0x2A#8 => .ok (.movwDisp x y z)
  | 0x2B#8 => .ok (.movbDisp x y z)
  | 0x30#8 => .ok (.addqReg x y z)
  | 0x31#8 => .ok (.subqReg x y z)
  | 0x32#8 => .ok (.mulqReg x y z)
  | 0x33#8 => .ok (.divqReg x y z)
  | 0x34#8 => .ok (.imulqReg x y z)
  | 0x35#8 => .ok (.idivqReg x y z)
  | 0x38#8 => .ok (.addqImm x y z)
  | 0x39#8 => .ok (.subqImm x y z)
  | 0x3A#8 => .ok (.mulqImm x y z)
  | 0x3B#8 => .ok (.divqImm x y z)
  | 0x3C#8 => .ok (.imulqImm x y z)
  | 0x3D#8 => .ok (.idivqImm x y z)
  | 0x40#8 => .ok (.jmpReg x y)
  | 0x41#8 => .ok (.jmpRel (x ++ y ++ z ++ 0#2))
  | 0x42#8 => .ok (.je (x ++ y ++ z ++ 0#2))
  | 0x43#8 => .ok (.jne (x ++ y ++ z ++ 0#2))
  | 0x44#8 => .ok (.jl (x ++ y ++ z ++ 0#2))
  | 0x45#8 => .ok (.jge (x ++ y ++ z ++ 0#2))
  | 0x46#8 => .ok (.jle (x ++ y ++ z ++ 0#2))
  | 0x47#8 => .ok (.jg (x ++ y ++ z ++ 0#2))
  | 0x48#8 => .ok (.jb (x ++ y ++ z ++ 0#2))
  | 0x49#8 => .ok (.jae (x ++ y ++ z ++ 0#2))
  | 0x4A#8 => .ok (.jna (x ++ y ++ z ++ 0#2))
  | 0x4B#8 => .ok (.ja (x ++ y ++ z ++ 0#2))
  | 0x50#8 => .ok (.orq x y z)
  | 0x51#8 => .ok (.andq x y z)
  | 0x52#8 => .ok (.shlqReg x y z)
  | 0x53#8 => .ok (.shrqReg x y z)
  | 0x54#8 => .ok (.sarqReg x y z)
  | 0x56#8 => .ok (.ldzwq (x ++ y) z)
  | 0x57#8 => .ok (.ldsq (x ++ y) z)
  | 0x5A#8 => .ok (.shlqImm x y z)
  | 0x5B#8 => .ok (.shrqImm x y z)
  | 0x5C#8 => .ok (.sarqImm x y z)
  | 0x5D#8 => .ok (.shldwq (x ++ y) z)
  | 0x5E#8 => .ok (.notq x y)
  | 0x60#8 => .ok (.getc x)
  | 0x61#8 => .ok (.putcReg x)
  | 0x69#8 => .ok (.putcImm x)
  | 0x80#8 => .ok (.movqLoadScaled2 x y z)
  | 0x81#8 => .ok (.movzlqScaled2 x y z)
  | 0x82#8 => .ok (.movzwqScaled2 x y z)
  | 0x83#8 => .ok (.movzbqScaled2 x y z)
  | 0x85#8 => .ok (.movslqScaled2 x y z)
  | 0x86#8 => .ok (.movswqScaled2 x y z)
  | 0x87#8 => .ok (.movsbqScaled2 x y z)
  | 0x90#8 => .ok (.movqStoreScaled2 x y z)
  | 0x91#8 => .ok (.movlScaled2 x y z)
  | 0x92#8 => .ok (.movwScaled2 x y z)
  | 0x93#8 => .ok (.movbScaled2 x y z)
  | 0xA0#8 => .ok (.movqLoadScaled4 x y z)
  | 0xA1#8 => .ok (.movzlqScaled4 x y z)
  | 0xA2#8 => .ok (.movzwqScaled4 x y z)
  | 0xA3#8 => .ok (.movzbqScaled4 x y z)
  | 0xA5#8 => .ok (.movslqScaled4 x y z)
  | 0xA6#8 => .ok (.movswqScaled4 x y z)
  | 0xA7#8 => .ok (.movsbqScaled4 x y z)
  | 0xB0#8 => .ok (.movqStoreScaled4 x y z)
  | 0xB1#8 => .ok (.movlScaled4 x y z)
  | 0xB2#8 => .ok (.movwScaled4 x y z)
  | 0xB3#8 => .ok (.movbScaled4 x y z)
  | 0xC0#8 => .ok (.movqLoadScaled8 x y z)
  | 0xC1#8 => .ok (.movzlqScaled8 x y z)
  | 0xC2#8 => .ok (.movzwqScaled8 x y z)
  | 0xC3#8 => .ok (.movzbqScaled8 x y z)
  | 0xC5#8 => .ok (.movslqScaled8 x y z)
  | 0xC6#8 => .ok (.movswqScaled8 x y z)
  | 0xC7#8 => .ok (.movsbqScaled8 x y z)
  | 0xD0#8 => .ok (.movqStoreScaled8 x y z)
  | 0xD1#8 => .ok (.movlScaled8 x y z)
  | 0xD2#8 => .ok (.movwScaled8 x y z)
  | 0xD3#8 => .ok (.movbScaled8 x y z)
  | 0xFF#8 => .ok .nop
  | _ => .error (.undefinedOpcode op)

/-- The decoder: the first instruction of a list of bytes, Op at the lowest address (rules R42, R63), and the bytes after it. -/
def decode : List Byte → Except DecodeError (Instr × List Byte)
  | op :: x :: y :: z :: rest =>
    match decodeFields op x y z with
    | .ok i => .ok (i, rest)
    | .error e => .error e
  | _ => .error .truncated

/-- The opcode byte of an instruction (the list of rule R79). -/
def Instr.opcode : Instr → Byte
  | .haltReg .. => 0x01#8
  | .trap .. => 0x02#8
  | .haltImm .. => 0x09#8
  | .movqLoadIndexed .. => 0x10#8
  | .movzlqIndexed .. => 0x11#8
  | .movzwqIndexed .. => 0x12#8
  | .movzbqIndexed .. => 0x13#8
  | .movslqIndexed .. => 0x15#8
  | .movswqIndexed .. => 0x16#8
  | .movsbqIndexed .. => 0x17#8
  | .movqLoadDisp .. => 0x18#8
  | .movzlqDisp .. => 0x19#8
  | .movzwqDisp .. => 0x1A#8
  | .movzbqDisp .. => 0x1B#8
  | .movslqDisp .. => 0x1D#8
  | .movswqDisp .. => 0x1E#8
  | .movsbqDisp .. => 0x1F#8
  | .movqStoreIndexed .. => 0x20#8
  | .movlIndexed .. => 0x21#8
  | .movwIndexed .. => 0x22#8
  | .movbIndexed .. => 0x23#8
  | .movqStoreDisp .. => 0x28#8
  | .movlDisp .. => 0x29#8
  | .movwDisp .. => 0x2A#8
  | .movbDisp .. => 0x2B#8
  | .addqReg .. => 0x30#8
  | .subqReg .. => 0x31#8
  | .mulqReg .. => 0x32#8
  | .divqReg .. => 0x33#8
  | .imulqReg .. => 0x34#8
  | .idivqReg .. => 0x35#8
  | .addqImm .. => 0x38#8
  | .subqImm .. => 0x39#8
  | .mulqImm .. => 0x3A#8
  | .divqImm .. => 0x3B#8
  | .imulqImm .. => 0x3C#8
  | .idivqImm .. => 0x3D#8
  | .jmpReg .. => 0x40#8
  | .jmpRel .. => 0x41#8
  | .je .. => 0x42#8
  | .jne .. => 0x43#8
  | .jl .. => 0x44#8
  | .jge .. => 0x45#8
  | .jle .. => 0x46#8
  | .jg .. => 0x47#8
  | .jb .. => 0x48#8
  | .jae .. => 0x49#8
  | .jna .. => 0x4A#8
  | .ja .. => 0x4B#8
  | .orq .. => 0x50#8
  | .andq .. => 0x51#8
  | .shlqReg .. => 0x52#8
  | .shrqReg .. => 0x53#8
  | .sarqReg .. => 0x54#8
  | .ldzwq .. => 0x56#8
  | .ldsq .. => 0x57#8
  | .shlqImm .. => 0x5A#8
  | .shrqImm .. => 0x5B#8
  | .sarqImm .. => 0x5C#8
  | .shldwq .. => 0x5D#8
  | .notq .. => 0x5E#8
  | .getc .. => 0x60#8
  | .putcReg .. => 0x61#8
  | .putcImm .. => 0x69#8
  | .movqLoadScaled2 .. => 0x80#8
  | .movzlqScaled2 .. => 0x81#8
  | .movzwqScaled2 .. => 0x82#8
  | .movzbqScaled2 .. => 0x83#8
  | .movslqScaled2 .. => 0x85#8
  | .movswqScaled2 .. => 0x86#8
  | .movsbqScaled2 .. => 0x87#8
  | .movqStoreScaled2 .. => 0x90#8
  | .movlScaled2 .. => 0x91#8
  | .movwScaled2 .. => 0x92#8
  | .movbScaled2 .. => 0x93#8
  | .movqLoadScaled4 .. => 0xA0#8
  | .movzlqScaled4 .. => 0xA1#8
  | .movzwqScaled4 .. => 0xA2#8
  | .movzbqScaled4 .. => 0xA3#8
  | .movslqScaled4 .. => 0xA5#8
  | .movswqScaled4 .. => 0xA6#8
  | .movsbqScaled4 .. => 0xA7#8
  | .movqStoreScaled4 .. => 0xB0#8
  | .movlScaled4 .. => 0xB1#8
  | .movwScaled4 .. => 0xB2#8
  | .movbScaled4 .. => 0xB3#8
  | .movqLoadScaled8 .. => 0xC0#8
  | .movzlqScaled8 .. => 0xC1#8
  | .movzwqScaled8 .. => 0xC2#8
  | .movzbqScaled8 .. => 0xC3#8
  | .movslqScaled8 .. => 0xC5#8
  | .movswqScaled8 .. => 0xC6#8
  | .movsbqScaled8 .. => 0xC7#8
  | .movqStoreScaled8 .. => 0xD0#8
  | .movlScaled8 .. => 0xD1#8
  | .movwScaled8 .. => 0xD2#8
  | .movbScaled8 .. => 0xD3#8
  | .nop => 0xFF#8

/-- The operand bytes X, Y, Z of an instruction (rules R64 to R77); a byte the format does not use is written as 0x00
(rule R81). -/
def Instr.operandBytes : Instr → Byte × Byte × Byte
  | .haltReg x => (x, 0, 0)
  | .trap x y z => (x, y, z)
  | .haltImm imm => (imm, 0, 0)
  | .movqLoadIndexed base offset z => (base, offset, z)
  | .movzlqIndexed base offset z => (base, offset, z)
  | .movzwqIndexed base offset z => (base, offset, z)
  | .movzbqIndexed base offset z => (base, offset, z)
  | .movslqIndexed base offset z => (base, offset, z)
  | .movswqIndexed base offset z => (base, offset, z)
  | .movsbqIndexed base offset z => (base, offset, z)
  | .movqLoadDisp disp base z => (disp, base, z)
  | .movzlqDisp disp base z => (disp, base, z)
  | .movzwqDisp disp base z => (disp, base, z)
  | .movzbqDisp disp base z => (disp, base, z)
  | .movslqDisp disp base z => (disp, base, z)
  | .movswqDisp disp base z => (disp, base, z)
  | .movsbqDisp disp base z => (disp, base, z)
  | .movqStoreIndexed x base offset => (x, base, offset)
  | .movlIndexed x base offset => (x, base, offset)
  | .movwIndexed x base offset => (x, base, offset)
  | .movbIndexed x base offset => (x, base, offset)
  | .movqStoreDisp x disp base => (x, disp, base)
  | .movlDisp x disp base => (x, disp, base)
  | .movwDisp x disp base => (x, disp, base)
  | .movbDisp x disp base => (x, disp, base)
  | .addqReg x y z => (x, y, z)
  | .subqReg x y z => (x, y, z)
  | .mulqReg x y z => (x, y, z)
  | .divqReg x y z => (x, y, z)
  | .imulqReg x y z => (x, y, z)
  | .idivqReg x y z => (x, y, z)
  | .addqImm imm y z => (imm, y, z)
  | .subqImm imm y z => (imm, y, z)
  | .mulqImm imm y z => (imm, y, z)
  | .divqImm imm y z => (imm, y, z)
  | .imulqImm imm y z => (imm, y, z)
  | .idivqImm imm y z => (imm, y, z)
  | .jmpReg x y => (x, y, 0)
  | .jmpRel rel => (rel.extractLsb' 18 8, rel.extractLsb' 10 8, rel.extractLsb' 2 8)
  | .je rel => (rel.extractLsb' 18 8, rel.extractLsb' 10 8, rel.extractLsb' 2 8)
  | .jne rel => (rel.extractLsb' 18 8, rel.extractLsb' 10 8, rel.extractLsb' 2 8)
  | .jl rel => (rel.extractLsb' 18 8, rel.extractLsb' 10 8, rel.extractLsb' 2 8)
  | .jge rel => (rel.extractLsb' 18 8, rel.extractLsb' 10 8, rel.extractLsb' 2 8)
  | .jle rel => (rel.extractLsb' 18 8, rel.extractLsb' 10 8, rel.extractLsb' 2 8)
  | .jg rel => (rel.extractLsb' 18 8, rel.extractLsb' 10 8, rel.extractLsb' 2 8)
  | .jb rel => (rel.extractLsb' 18 8, rel.extractLsb' 10 8, rel.extractLsb' 2 8)
  | .jae rel => (rel.extractLsb' 18 8, rel.extractLsb' 10 8, rel.extractLsb' 2 8)
  | .jna rel => (rel.extractLsb' 18 8, rel.extractLsb' 10 8, rel.extractLsb' 2 8)
  | .ja rel => (rel.extractLsb' 18 8, rel.extractLsb' 10 8, rel.extractLsb' 2 8)
  | .orq x y z => (x, y, z)
  | .andq x y z => (x, y, z)
  | .shlqReg x y z => (x, y, z)
  | .shrqReg x y z => (x, y, z)
  | .sarqReg x y z => (x, y, z)
  | .ldzwq imm z => (imm.extractLsb' 8 8, imm.extractLsb' 0 8, z)
  | .ldsq imm z => (imm.extractLsb' 8 8, imm.extractLsb' 0 8, z)
  | .shlqImm imm y z => (imm, y, z)
  | .shrqImm imm y z => (imm, y, z)
  | .sarqImm imm y z => (imm, y, z)
  | .shldwq imm z => (imm.extractLsb' 8 8, imm.extractLsb' 0 8, z)
  | .notq x y => (x, y, 0)
  | .getc x => (x, 0, 0)
  | .putcReg x => (x, 0, 0)
  | .putcImm imm => (imm, 0, 0)
  | .movqLoadScaled2 base offset z => (base, offset, z)
  | .movzlqScaled2 base offset z => (base, offset, z)
  | .movzwqScaled2 base offset z => (base, offset, z)
  | .movzbqScaled2 base offset z => (base, offset, z)
  | .movslqScaled2 base offset z => (base, offset, z)
  | .movswqScaled2 base offset z => (base, offset, z)
  | .movsbqScaled2 base offset z => (base, offset, z)
  | .movqStoreScaled2 x base offset => (x, base, offset)
  | .movlScaled2 x base offset => (x, base, offset)
  | .movwScaled2 x base offset => (x, base, offset)
  | .movbScaled2 x base offset => (x, base, offset)
  | .movqLoadScaled4 base offset z => (base, offset, z)
  | .movzlqScaled4 base offset z => (base, offset, z)
  | .movzwqScaled4 base offset z => (base, offset, z)
  | .movzbqScaled4 base offset z => (base, offset, z)
  | .movslqScaled4 base offset z => (base, offset, z)
  | .movswqScaled4 base offset z => (base, offset, z)
  | .movsbqScaled4 base offset z => (base, offset, z)
  | .movqStoreScaled4 x base offset => (x, base, offset)
  | .movlScaled4 x base offset => (x, base, offset)
  | .movwScaled4 x base offset => (x, base, offset)
  | .movbScaled4 x base offset => (x, base, offset)
  | .movqLoadScaled8 base offset z => (base, offset, z)
  | .movzlqScaled8 base offset z => (base, offset, z)
  | .movzwqScaled8 base offset z => (base, offset, z)
  | .movzbqScaled8 base offset z => (base, offset, z)
  | .movslqScaled8 base offset z => (base, offset, z)
  | .movswqScaled8 base offset z => (base, offset, z)
  | .movsbqScaled8 base offset z => (base, offset, z)
  | .movqStoreScaled8 x base offset => (x, base, offset)
  | .movlScaled8 x base offset => (x, base, offset)
  | .movwScaled8 x base offset => (x, base, offset)
  | .movbScaled8 x base offset => (x, base, offset)
  | .nop => (0, 0, 0)

/-- The encoder: the four bytes of an instruction in memory order (rules R42, R63). -/
def encode (i : Instr) : List Byte :=
  [i.opcode, i.operandBytes.1, i.operandBytes.2.1, i.operandBytes.2.2]

/-- The instruction word: Op in bits 31:24, X in 23:16, Y in 15:8, Z in 7:0 (rule R63). -/
def encodeWord (i : Instr) : BitVec 32 :=
  i.opcode ++ i.operandBytes.1 ++ i.operandBytes.2.1 ++ i.operandBytes.2.2

/-- The four bytes of an instruction word as memory holds them, Op first (rules R42, R63). -/
def wordBytes (w : BitVec 32) : List Byte :=
  [w.extractLsb' 24 8, w.extractLsb' 16 8, w.extractLsb' 8 8, w.extractLsb' 0 8]

/-- How many of the operand bytes X, Y, Z, from X on, a format uses (rules R64 to R77). -/
def Format.usedBytes : Format → Nat
  | .empty => 0
  | .r => 1
  | .u8 => 1
  | .rr => 2
  | .rrr => 3
  | .urr => 3
  | .srr => 3
  | .u16r => 3
  | .s16r => 3
  | .s24 => 3
  | .mrrr => 3
  | .msrr => 3
  | .rmrr => 3
  | .rmsr => 3

/-- The operand bytes that the instruction's format does not use are all 0 (rule R81, UNUSED_FIELDS = refuse_nonzero). -/
def unusedBytesZero (i : Instr) (x y z : Byte) : Bool :=
  ([x, y, z].drop i.format.usedBytes).all (· == 0#8)

/-- The instruction the decoder reads from a row's table word: bit 0 of `w` is the least significant bit of the one
32-bit word, bits from `nbits` up are 0, and the word is laid out in memory Op first (rules R42, R63). -/
def decodeTableWord (nbits w : Nat) : Option Instr :=
  match decode (wordBytes (BitVec.ofNat 32 (w % 2 ^ nbits))) with
  | .ok (i, _) => some i
  | .error _ => none

end Sys2Proof
end

