-- ==== Sys2Proof/Config.lean ====
section
/-! DEFINITION. What an implementation fixes: the named parameters of rule R4 that a step consults, the shape of the
execution environment's answers (rules R281 to R284), and the free values (opaque constants: nothing in Lean can compute
one or prove a value of one). -/

namespace Sys2Proof

/-- A run of consecutive byte addresses that exist: `base` to `base + size - 1` (part of MEM_VALID). -/
structure Region where
  base : Nat
  size : Nat
deriving DecidableEq, Repr

/-- UNUSED_FIELDS: operand bytes an instruction does not use (rule R81, D4). -/
inductive UnusedFields where
  | ignore
  | refuseNonzero
deriving DecidableEq, Repr

/-- REGNUM_OVERFLOW: a register number `Y+1`, `Z+1` or `Z+2` above 255 (rule R101, D9). -/
inductive RegnumOverflow where
  | fault
  | wrap256
deriving DecidableEq, Repr

/-- IDIV_OVERFLOW: `idivq` of -2^63 by -1 (rule R112, D11). -/
inductive IdivOverflow where
  | fault
  | wrap
deriving DecidableEq, Repr

/-- JMP_SAME_REG: `jmp %x, %y` with x = y and x not 0 (rule R161, D19). -/
inductive JmpSameReg where
  | readFirst
  | refuse
deriving DecidableEq, Repr

/-- GETC_UPPER: bits 63:8 of the destination of `getc` (rule R272, D18). -/
inductive GetcUpper where
  | zero
  | preserve
  | any
deriving DecidableEq, Repr

/-- What a trap number of TRAP_TABLE stands for: one of the two services the source describes, or a service of the
environment that the source does not describe (rule R281; I2, I3). -/
inductive Service where
  | read
  | write
  | undescribed
deriving DecidableEq, Repr

/-- The parameters of rule R4 that a step consults. They are the environment's, fixed before the first step; State holds
them so that a statement about every state is a statement about every choice of them. -/
structure Params where
  /-- MEM_VALID, the addresses that exist (rule R43, D14). -/
  memValid : List Region
  /-- UNUSED_FIELDS (rule R81). -/
  unusedFields : UnusedFields
  /-- REGNUM_OVERFLOW (rule R101). -/
  regnumOverflow : RegnumOverflow
  /-- IDIV_OVERFLOW (rule R112). -/
  idivOverflow : IdivOverflow
  /-- JMP_SAME_REG (rule R161). -/
  jmpSameReg : JmpSameReg
  /-- GETC_UPPER (rule R272). -/
  getcUpper : GetcUpper
  /-- HALT_EXIT_CELL, "the last memory cell", or none (rules R270, R271). -/
  haltExitCell : Option Addr
  /-- TRAP_TABLE, the trap numbers the environment serves and their meaning (rule R281). -/
  trapTable : List (Nat × Service)
deriving DecidableEq, Repr

/-- The defaults of rule R4. MEM_VALID has none there: all 2^64 addresses is the MODEL's choice. DESIGN CHOICE, unsafe:
a statement that takes this value says nothing of a machine with less memory (log 14). -/
def Params.default : Params where
  memValid := [⟨0, 2 ^ 64⟩]
  unusedFields := .ignore
  regnumOverflow := .fault
  idivOverflow := .fault
  jmpSameReg := .readFirst
  getcUpper := .zero
  haltExitCell := none
  trapTable := [(0, .read), (1, .write)]

/-- An error number of the environment, `e > 0` (rule R282); its numbering is the environment's (I5). -/
abbrev Errno := { e : Nat // 0 < e }

/-- The decoded parameter block of `read` and `write` (rule R284). -/
structure Request where
  /-- The file descriptor, `s_32(MemRead(p, 4))`. -/
  fd : Int
  /-- The address of the buffer. -/
  buf : Addr
  /-- The size of the buffer, an unsigned 64-bit number. -/
  nbyte : Nat
deriving DecidableEq, Repr

/-- What the environment answers a `read` that returns (rule R282): the bytes delivered, in order (only the first `nbyte`
count), or an error number. -/
inductive ReadAnswer where
  | delivered (bytes : List Byte)
  | failed (e : Errno)
deriving DecidableEq, Repr

/-- What the environment answers a `write` that returns (rule R283): how many bytes it accepted (at most `nbyte` count),
or an error number. -/
inductive WriteAnswer where
  | accepted (count : Nat)
  | failed (e : Errno)
deriving DecidableEq, Repr

/-- The bytes one `write` service handed to a file descriptor (rules R283, R335). -/
structure WriteRecord where
  fd : Int
  bytes : List Byte
deriving DecidableEq, Repr

/-- FREE VALUE (logs 33, 34): the environment's answer to a `read` request where State holds no prepared answer, `n` free
values having been drawn; `none` is a service that has not returned (rules R305, R338), so nothing says that it returns. -/
opaque Config.readAnswer (n : Nat) (req : Request) : Option ReadAnswer

/-- FREE VALUE (logs 33, 34): the environment's answer to a `write` request with the given buffer content, where State holds
no prepared answer; `none` is a service that has not returned. -/
opaque Config.writeAnswer (n : Nat) (req : Request) (data : List Byte) : Option WriteAnswer

/-- FREE VALUE (log 22): bits 63:8 of the destination of `getc` under GETC_UPPER = any. -/
opaque Config.getcUpperBits (n : Nat) : BitVec 56

end Sys2Proof
end

