-- ==== Sys2Proof/Machine/State.lean ====
section
/-! DEFINITION. The state of the ULM as plain data (rules R20 to R33), the reasons a step can stop, and the state before
the first step. -/

namespace Sys2Proof.Machine

/-- What an access was for (rule R43). -/
inductive AccessKind where
  | read
  | write
  | fetch
deriving DecidableEq, Repr

/-- The fault outcomes of rule R301. Each ends the step with none of the instruction's writes (rule R16); none has a
handler. The source is silent on each of these cases, and the spec's own decisions name the outcome; to stop there is
safe: nothing can be proved of what the hardware does next. -/
inductive Fault where
  /-- The fetch of any step with `u(pc) mod 4 != 0` (rule R61, D13). Safe. -/
  | misalignedFetch (pc : Addr)
  /-- Fetch, loads, stores, `halt` with an exit cell, `trap`: one of the `n` bytes at `a` is outside MEM_VALID (rule R43, D14). Safe. -/
  | memoryAccessFault (a : Addr) (n : Nat) (kind : AccessKind)
  /-- Decoding: an undefined opcode (rule R80, D5), or a nonzero unused operand byte under UNUSED_FIELDS = refuse_nonzero (rule R81). Safe. -/
  | illegalInstruction (pc : Addr) (w : BitVec 32)
  /-- Loads, stores of 2, 4, 8 bytes and the parameter block of `trap`: `u(a) mod n != 0` (rule R44, D12, D24). Safe. -/
  | misalignedAccess (a : Addr) (n : Nat)
  /-- `mulq`, `divq`, `idivq` under REGNUM_OVERFLOW = fault: a register number above 255 (rule R101, D9). Safe. -/
  | registerIndexOverflow (pc : Addr) (w : BitVec 32)
  /-- `divq`, `idivq`: divisor 0 (rules R108, R109, R112, R113, D10). Safe. -/
  | divideByZero (pc : Addr) (w : BitVec 32)
  /-- `idivq` under IDIV_OVERFLOW = fault: -2^63 by -1 (rules R112, R113, D11). Safe. -/
  | divideOverflow (pc : Addr) (w : BitVec 32)
  /-- `trap`: the number is not in TRAP_TABLE (rule R280, D24). Safe. -/
  | unknownTrap (pc : Addr) (n : Nat)
deriving DecidableEq, Repr

/-- What the model declines to give a meaning. -/
inductive Refusal where
  /-- Raised by an arm of `exec` whose instruction has no meaning yet; there is none. Safe. -/
  | notModelled (mnemonic : String)
  /-- Raised by `jmp %x, %x`, x not 0, under JMP_SAME_REG = refuse only (rule R161, D19). Safe. -/
  | jmpSameRegister (pc : Addr) (w : BitVec 32)
  /-- Raised by `trap` with a number the environment serves by a service the source does not describe (rule R281, I2, I3). Safe. -/
  | undescribedService (pc : Addr) (n : Nat)
deriving DecidableEq, Repr

/-- The four status flags (rule R25): four separate bits, no register holds them. -/
structure Flags where
  /-- ZF, "zero flag". -/
  zf : Bool
  /-- CF, "carry flag". -/
  cf : Bool
  /-- OF, by its conditions signed overflow. -/
  of : Bool
  /-- SF, bit 63 of a result. -/
  sf : Bool
deriving DecidableEq, Repr

/-- Memory (rules R28, R40): (address, byte) pairs in canonical form, see `Memory.wf`. -/
abbrev Memory := List Host.Cell

/-- The state of the ULM and of the environment as far as a step sees it. -/
structure State where
  /-- `x[1]` to `x[255]` (rule R21); `x[0]` has no storage (rule R22). -/
  regs : Vector Quad 255
  /-- The instruction pointer `%ip` (rule R24). -/
  pc : Addr
  /-- ZF, CF, OF, SF (rule R25). -/
  flags : Flags
  /-- Memory (rule R28). -/
  mem : Memory
  /-- The halted mark and the exit code (rule R30): `none` while running, `some c` once halted with exit code c. -/
  halted : Option Byte
  /-- The input device: bytes not yet consumed (rule R29). -/
  input : List Byte
  /-- The output device: bytes written so far, in order (rule R29). -/
  output : List Byte
  /-- The data handed to `write` services, in order (rules R283, R335). -/
  written : List WriteRecord
  /-- The answers the environment has prepared for `read` services, first one next (rules R281, R336); `none` is a service that has not returned (rule R305). -/
  readAnswers : List (Option ReadAnswer)
  /-- The answers the environment has prepared for `write` services, first one next. -/
  writeAnswers : List (Option WriteAnswer)
  /-- The parameters of rule R4 that a step consults; no step writes them. -/
  params : Params
  /-- The MODEL's own field: how many free values have been drawn (log 42). -/
  freeCount : Nat
deriving DecidableEq, Repr

/-- What a step answers. -/
abbrev Result := Host.Outcome State Fault Refusal

/-- The state before the first step with every parameter at its default and an empty program image (rule R33). Zero
registers, flags and `pc` are the spec's own defaults (D15), not the source's: DESIGN CHOICE, unsafe (logs 15 to 18, 43). -/
def State.reset : State where
  regs := Vector.replicate 255 0#64
  pc := 0#64
  flags := ⟨false, false, false, false⟩
  mem := []
  halted := none
  input := []
  output := []
  written := []
  readAnswers := []
  writeAnswers := []
  params := Params.default
  freeCount := 0

end Sys2Proof.Machine
end

