-- ==== Sys2Proof/Machine/Ops.lean ====
section
/-! DEFINITION. The named operations over memory and registers: bytes of memory in canonical form, big-endian data
(rule R41), validity and alignment (rules R43 to R45), the register file with its zero register (rules R12, R22), the
sequential advance (rule R62), the end of a step in a fault (rule R16). The ULM takes no exception and returns from none
(rules R300, R304, R305), so there is no exception entry here: `raise` is all there is. -/

namespace Sys2Proof.Machine

/-! ### Bytes of memory -/

/-- What an address that memory does not list reads as: INIT_MEM, 0 by default (rule R33). DESIGN CHOICE, unsafe (log 18). -/
def Memory.unlisted : Byte := 0#8

/-- `M_1(a)`: the byte at address `a` (rules R9, R40). -/
def Memory.byteAt : Memory → Nat → Byte
  | [], _ => Memory.unlisted
  | (k, b) :: m, a => if a = k then b else Memory.byteAt m a

/-- The memory with byte `v` at address `a`, in canonical form again. -/
def Memory.put : Memory → Nat → Byte → Memory
  | [], a, v => if v = Memory.unlisted then [] else [(a, v)]
  | (k, b) :: m, a, v =>
    if a < k then
      if v = Memory.unlisted then (k, b) :: m else (a, v) :: (k, b) :: m
    else if a = k then
      if v = Memory.unlisted then m else (a, v) :: m
    else (k, b) :: Memory.put m a v

/-- The canonical form: addresses strictly rising and below 2^64, and no entry equal to what an unlisted address reads as. -/
abbrev Memory.wf (m : Memory) : Prop :=
  m.Pairwise (fun c d => c.1 < d.1) ∧ ∀ c ∈ m, c.2 ≠ Memory.unlisted ∧ c.1 < 2 ^ 64

/-- The address `i` bytes after `a`, modulo 2^64 (rules R43, R45). -/
def Memory.cell (a : Addr) (i : Nat) : Nat := (a.toNat + i) % 2 ^ 64

/-- The `n` bytes at `a`, `a + 1`, ..., in address order (rule R9). -/
def Memory.readBytes (m : Memory) (a : Addr) (n : Nat) : List Byte :=
  (List.range n).map fun i => Memory.byteAt m (Memory.cell a i)

/-- The memory with the bytes `bs` at `a`, `a + 1`, ... -/
def Memory.writeBytes (m : Memory) (a : Addr) : List Byte → Memory
  | [] => m
  | b :: bs => Memory.writeBytes (Memory.put m a.toNat b) (a + 1#64) bs

/-- The unsigned value of bytes in address order, the first the most significant (rule R41). -/
def bigEndianValue (bs : List Byte) : Nat :=
  bs.foldl (fun v b => v * 256 + b.toNat) 0

/-- The low `n` bytes of `v` in address order, most significant first: byte i is `v[8(n-i)-1 : 8(n-1-i)]` (rule R45). -/
def bigEndianBytes (n : Nat) (v : Quad) : List Byte :=
  (List.range n).map fun i => v.extractLsb' (8 * (n - 1 - i)) 8

/-! ### Registers and the instruction pointer -/

/-- `x[r]` read: the zero register reads as zero (rules R12, R22). -/
def State.reg (s : State) (r : Reg) : Quad :=
  if r = 0#8 then 0#64 else (s.regs[r.toNat - 1]?).getD 0#64

/-- `x[r] <- v`: a write to the zero register is discarded (rules R12, R22). -/
def State.setReg (s : State) (r : Reg) (v : Quad) : State :=
  if r = 0#8 then s else { s with regs := s.regs.setIfInBounds (r.toNat - 1) v }

/-- `pc <- t` (rule R12). -/
def State.setPc (s : State) (t : Addr) : State := { s with pc := t }

/-- The flags replaced by `f` (rule R15); a flag a rule does not assign is carried over by whoever builds `f`. -/
def State.setFlags (s : State) (f : Flags) : State := { s with flags := f }

/-- The address of the next instruction in sequence, `pat_64(u(pc) + 4)` (rule R62, D3, D30). -/
def State.nextPc (s : State) : Addr := pat64 (s.pc.toNat + 4)

/-- The sequential advance (rule R62). -/
def State.advance (s : State) : State := s.setPc s.nextPc

/-! ### Faults -/

/-- `raise f`: the step ends in the fault outcome, with none of the instruction's writes (rules R16, R301). -/
def raise (f : Fault) : Result := .fault f

/-! ### Validity, alignment, the two memory primitives -/

/-- Address `a` is in MEM_VALID (rule R43). -/
def inMap (rs : List Region) (a : Nat) : Bool :=
  rs.any fun r => decide (r.base ≤ a) && decide (a < r.base + r.size)

/-- All `n` bytes at `a` exist (rule R43). -/
def State.valid (s : State) (a : Addr) (n : Nat) : Bool :=
  (List.range n).all fun i => inMap s.params.memValid (Memory.cell a i)

/-- The checks of rule R45, alignment before validity (rule R302 (7)). -/
def State.checkAccess (s : State) (a : Addr) (n : Nat) (kind : AccessKind) : Except Fault Unit :=
  if a.toNat % n ≠ 0 then .error (.misalignedAccess a n)
  else if s.valid a n then .ok ()
  else .error (.memoryAccessFault a n kind)

/-- `MemRead(a, n)` (rule R45), as the unsigned value `u(M_n(a))`. -/
def State.memRead (s : State) (a : Addr) (n : Nat) : Except Fault Nat :=
  match s.checkAccess a n .read with
  | .error f => .error f
  | .ok () => .ok (bigEndianValue (Memory.readBytes s.mem a n))

/-- `MemWrite(a, n, v)` (rule R45): the low `n` bytes of `v`. -/
def State.memWrite (s : State) (a : Addr) (n : Nat) (v : Quad) : Except Fault State :=
  match s.checkAccess a n .write with
  | .error f => .error f
  | .ok () => .ok { s with mem := Memory.writeBytes s.mem a (bigEndianBytes n v) }

/-- A load: read `n` bytes at `a`, extend, write register `z`, advance (rule R190). -/
def State.load (s : State) (a : Addr) (n : Nat) (extend : Nat → Quad) (z : Reg) : Result :=
  match s.memRead a n with
  | .error f => raise f
  | .ok v => .next ((s.setReg z (extend v)).advance)

/-- A store: write the low `n` bytes of register `x` at `a`, advance (rule R240). -/
def State.store (s : State) (a : Addr) (n : Nat) (x : Reg) : Result :=
  match s.memWrite a n (s.reg x) with
  | .error f => raise f
  | .ok t => .next t.advance

end Sys2Proof.Machine
end

