-- ==== Sys2Proof/Machine/Operands.lean ====
section
/-! DEFINITION. Every operand form of the ULM: immediates and their extension (rules R65 to R71, R78), the relative jump
target (rule R72), the three address forms (rules R47 to R49), the registers of pairs and triples (rule R101). -/

namespace Sys2Proof.Machine

/-- `zext_64(X)`: an unsigned 8-bit immediate (rules R68, R100). -/
def unsignedImm (imm : Byte) : Quad := pat64 imm.toNat

/-- `sext_64(X)`: a signed 8-bit immediate (rules R69, R100, D22). -/
def signedImm (imm : Byte) : Quad := pat64 imm.toInt

/-- `zext_64(X : Y)` (rule R70). -/
def unsignedImm16 (imm : BitVec 16) : Quad := pat64 imm.toNat

/-- `sext_64(X : Y)` (rule R71). -/
def signedImm16 (imm : BitVec 16) : Quad := pat64 imm.toInt

/-- The target of a relative jump, `pat_64(u(pc) + xyz)` with `xyz = 4 * s_24(XYZ)` the signed byte offset (rules R72, R160 (c)). -/
def State.relTarget (s : State) (rel : BitVec 26) : Addr := pat64 (s.pc.toNat + rel.toInt)

/-- The indexed form, `pat_64(u(x[Base]) + u(x[Offset]))` (rule R47). -/
def State.addrIndexed (s : State) (base offset : Reg) : Addr :=
  pat64 ((s.reg base).toNat + (s.reg offset).toNat)

/-- The scaled indexed form, `pat_64(u(x[Base]) + scale * u(x[Offset]))` (rule R48). -/
def State.addrScaled (s : State) (base : Reg) (scale : Nat) (offset : Reg) : Addr :=
  pat64 ((s.reg base).toNat + scale * (s.reg offset).toNat)

/-- The displacement form, `pat_64(u(x[Base]) + s_8(displace))` (rule R49). -/
def State.addrDisp (s : State) (disp : Byte) (base : Reg) : Addr :=
  pat64 ((s.reg base).toNat + disp.toInt)

/-- Zero extension of the `n`-byte datum of value `v` (rule R46); `movq`'s unchanged 8 bytes too. -/
def zeroExtend (v : Nat) : Quad := pat64 v

/-- Sign extension of the `n`-byte datum of value `v` (rule R46). -/
def signExtend (n : Nat) (v : Nat) : Quad := pat64 (BitVec.ofNat (8 * n) v).toInt

/-- Register `u(r) + k` of a pair or triple: `none` where the number exceeds 255 and REGNUM_OVERFLOW is `fault`, the number
modulo 256 where it is `wrap256` (rule R101, D9). -/
def State.regPlus (s : State) (r : Reg) (k : Nat) : Option Reg :=
  if r.toNat + k ≤ 255 then some (BitVec.ofNat 8 (r.toNat + k))
  else
    match s.params.regnumOverflow with
    | .fault => none
    | .wrap256 => some (BitVec.ofNat 8 (r.toNat + k))

end Sys2Proof.Machine
end

