-- ==== Sys2Proof/Machine/Flags.lean ====
section
/-! DEFINITION. Every flag computation of the ULM (rule R26), each from the exact integers of its rule, and the ten
conditions the conditional jumps test (rules R163 to R172). A flag that a rule does not name is carried over from the
flags before (rule R26, D6; log 6); conditions on a result are taken on the computed value (rule R22, D7; log 7). -/

namespace Sys2Proof.Machine

/-- ZF, CF, OF, SF of `addq` (rules R102, R103). -/
def addFlags (a b : Quad) : Flags where
  zf := decide (pat64 (a.toNat + b.toNat) = 0#64)
  cf := decide (2 ^ 64 ≤ a.toNat + b.toNat)
  of := decide (2 ^ 63 ≤ a.toInt + b.toInt) || decide (a.toInt + b.toInt < -2 ^ 63)
  sf := decide (2 ^ 63 ≤ (pat64 (a.toNat + b.toNat)).toNat)

/-- ZF, CF, OF, SF of `subq`, subtrahend `a`, minuend `b`; CF is the unsigned borrow (rules R104, R105). -/
def subFlags (a b : Quad) : Flags where
  zf := decide (pat64 ((b.toNat : Int) - a.toNat) = 0#64)
  cf := decide ((b.toNat : Int) - a.toNat < 0)
  of := decide (b.toInt - a.toInt < -2 ^ 63) || decide (2 ^ 63 ≤ b.toInt - a.toInt)
  sf := decide (2 ^ 63 ≤ (pat64 ((b.toNat : Int) - a.toNat)).toNat)

/-- CF and OF of `mulq`, both 1 exactly when the low quadword of the product is 0, as the source prints it (rules R106,
R107, D20; log 26). -/
def mulFlags (f : Flags) (a b : Quad) : Flags :=
  { f with
    cf := decide (a.toNat * b.toNat % 2 ^ 64 = 0)
    of := decide (a.toNat * b.toNat % 2 ^ 64 = 0) }

/-- CF and OF of `imulq`: the unsigned and the signed product do not fit 64 bits (rules R110, R111). -/
def imulFlags (f : Flags) (a b : Quad) : Flags :=
  { f with
    cf := decide (a.toNat * b.toNat ≠ (pat64 (a.toNat * b.toNat)).toNat)
    of := decide (a.toInt * b.toInt ≠ (pat64 (a.toNat * b.toNat)).toInt) }

/-- ZF from a result, the other flags kept (rules R130 to R132, R150, R151). -/
def zeroFlag (f : Flags) (r : Quad) : Flags := { f with zf := decide (r = 0#64) }

/-- CF of `shlq` by `c`: 0 for a count of 64 or more, else bit `64 - c` of the value, the last bit shifted out (rules R133,
R134, D31). -/
def shlCarry (c : Nat) (b : Quad) : Bool :=
  if 64 ≤ c then false else decide (b.toNat / 2 ^ (64 - c) % 2 = 1)

/-- CF of `shlq`, the other flags kept (rules R133, R134). -/
def shlFlags (f : Flags) (c : Nat) (b : Quad) : Flags := { f with cf := shlCarry c b }

/-- CF (bit 48 of the old value) and ZF (of the new value) of `shldwq` (rule R152, D21; log 27). Rule R153 words CF after
its sequence otherwise (log 51). -/
def shldwFlags (f : Flags) (old r : Quad) : Flags :=
  { f with
    zf := decide (r = 0#64)
    cf := old.getLsbD 48 }

/-! ### The conditions of the conditional jumps -/

/-- `je`, ZF = 1 (rule R163). -/
def condE (f : Flags) : Bool := f.zf
/-- `jne`, ZF = 0 (rule R164). -/
def condNe (f : Flags) : Bool := !f.zf
/-- `jl`, SF != OF (rule R165). -/
def condL (f : Flags) : Bool := f.sf != f.of
/-- `jge`, SF = OF (rule R166). -/
def condGe (f : Flags) : Bool := f.sf == f.of
/-- `jle`, (ZF = 1) or (SF != OF) (rule R167). -/
def condLe (f : Flags) : Bool := f.zf || f.sf != f.of
/-- `jg`, (ZF = 0) and (SF = OF) (rule R168). -/
def condG (f : Flags) : Bool := !f.zf && f.sf == f.of
/-- `jb`, CF = 1 (rule R169). -/
def condB (f : Flags) : Bool := f.cf
/-- `jae`, CF = 0 (rule R170). -/
def condAe (f : Flags) : Bool := !f.cf
/-- `jna`, (CF = 1) or (ZF = 1) (rule R171). -/
def condNa (f : Flags) : Bool := f.cf || f.zf
/-- `ja`, (CF = 0) and (ZF = 0) (rule R172). -/
def condA (f : Flags) : Bool := !f.cf && !f.zf

end Sys2Proof.Machine
end

