-- ==== Sys2Proof/Machine/Arith.lean ====
section
/-! DEFINITION. The meanings of the integer arithmetic family (opcodes 0x30 to 0x35, 0x38 to 0x3D; rules R100 to R114).
The first operand is a register or an immediate extended to 64 bits; after that both forms compute the same (rule R100). -/

namespace Sys2Proof.Machine

/-! ### Shared bodies -/

/-- `addq` on first operand `a` (rules R102, R103). -/
def State.addTo (s : State) (a : Quad) (y z : Reg) : Result :=
  .next (((s.setFlags (addFlags a (s.reg y))).setReg z (pat64 (a.toNat + (s.reg y).toNat))).advance)

/-- `subq` of first operand `a` (rules R104, R105). -/
def State.subFrom (s : State) (a : Quad) (y z : Reg) : Result :=
  .next (((s.setFlags (subFlags a (s.reg y))).setReg z (pat64 (((s.reg y).toNat : Int) - a.toNat))).advance)

/-- `mulq` by first operand `a`: low quadword to `z`, high quadword to `z + 1` (rules R106, R107); `w` is the instruction word. -/
def State.mulBy (s : State) (w : BitVec 32) (a : Quad) (y z : Reg) : Result :=
  match s.regPlus z 1 with
  | none => raise (.registerIndexOverflow s.pc w)
  | some z1 =>
    let p := a.toNat * (s.reg y).toNat
    .next ((((s.setFlags (mulFlags s.flags a (s.reg y))).setReg z (pat64 (p % 2 ^ 64 : Nat))).setReg z1
      (pat64 (p / 2 ^ 64 : Nat))).advance)

/-- `divq` by first operand `a`: the 128-bit dividend in `y`, `y + 1`, the quotient to `z`, `z + 1`, the remainder to `z + 2`
(rules R108, R109). -/
def State.divBy (s : State) (w : BitVec 32) (a : Quad) (y z : Reg) : Result :=
  match s.regPlus y 1, s.regPlus z 1, s.regPlus z 2 with
  | some y1, some z1, some z2 =>
    let d := a.toNat
    let n := (s.reg y1).toNat * 2 ^ 64 + (s.reg y).toNat
    if d = 0 then raise (.divideByZero s.pc w)
    else
      .next ((((s.setReg z (pat64 (n / d % 2 ^ 64 : Nat))).setReg z1 (pat64 (n / d / 2 ^ 64 : Nat))).setReg z2
        (pat64 (n % d : Nat))).advance)
  | _, _, _ => raise (.registerIndexOverflow s.pc w)

/-- `imulq` by first operand `a` (rules R110, R111). -/
def State.imulBy (s : State) (a : Quad) (y z : Reg) : Result :=
  .next (((s.setFlags (imulFlags s.flags a (s.reg y))).setReg z (pat64 (a.toNat * (s.reg y).toNat))).advance)

/-- The quotient of `idivq`, rounded towards zero: the source's internal computation `s * floor(|n| / |d|)` (rule R112). -/
def idivQuotient (n d : Int) : Int :=
  (if n * d > 0 then 1 else -1) * ↑(n.natAbs / d.natAbs)

/-- The remainder of `idivq`, `n - d * q` (rule R112). -/
def idivRemainder (n d : Int) : Int := n - d * idivQuotient n d

/-- `idivq` by first operand `a`: quotient to `z`, remainder to `z + 1` (rules R112, R113). -/
def State.idivBy (s : State) (w : BitVec 32) (a : Quad) (y z : Reg) : Result :=
  match s.regPlus z 1 with
  | none => raise (.registerIndexOverflow s.pc w)
  | some z1 =>
    let d := a.toInt
    let n := (s.reg y).toInt
    if d = 0 then raise (.divideByZero s.pc w)
    else if idivQuotient n d > 2 ^ 63 - 1 ∧ s.params.idivOverflow = .fault then raise (.divideOverflow s.pc w)
    else .next (((s.setReg z (pat64 (idivQuotient n d))).setReg z1 (pat64 (idivRemainder n d))).advance)

/-! ### The twelve meanings -/

/-- `addq %x, %y, %z`, rule R102. -/
def execAddqReg (x y z : Reg) (s : State) : Result := s.addTo (s.reg x) y z

/-- `addq x, %y, %z`, rule R103. -/
def execAddqImm (imm : Byte) (y z : Reg) (s : State) : Result := s.addTo (unsignedImm imm) y z

/-- `subq %x, %y, %z`, rule R104. -/
def execSubqReg (x y z : Reg) (s : State) : Result := s.subFrom (s.reg x) y z

/-- `subq x, %y, %z`, rule R105. -/
def execSubqImm (imm : Byte) (y z : Reg) (s : State) : Result := s.subFrom (unsignedImm imm) y z

/-- `mulq %x, %y, %z`, rule R106. -/
def execMulqReg (x y z : Reg) (s : State) : Result := s.mulBy (encodeWord (.mulqReg x y z)) (s.reg x) y z

/-- `mulq x, %y, %z`, rule R107. -/
def execMulqImm (imm : Byte) (y z : Reg) (s : State) : Result :=
  s.mulBy (encodeWord (.mulqImm imm y z)) (unsignedImm imm) y z

/-- `divq %x, %y, %z`, rule R108. -/
def execDivqReg (x y z : Reg) (s : State) : Result := s.divBy (encodeWord (.divqReg x y z)) (s.reg x) y z

/-- `divq x, %y, %z`, rule R109. -/
def execDivqImm (imm : Byte) (y z : Reg) (s : State) : Result :=
  s.divBy (encodeWord (.divqImm imm y z)) (unsignedImm imm) y z

/-- `imulq %x, %y, %z`, rule R110. -/
def execImulqReg (x y z : Reg) (s : State) : Result := s.imulBy (s.reg x) y z

/-- `imulq x, %y, %z`, rule R111. -/
def execImulqImm (imm : Byte) (y z : Reg) (s : State) : Result := s.imulBy (signedImm imm) y z

/-- `idivq %x, %y, %z`, rule R112. -/
def execIdivqReg (x y z : Reg) (s : State) : Result := s.idivBy (encodeWord (.idivqReg x y z)) (s.reg x) y z

/-- `idivq x, %y, %z`, rule R113. -/
def execIdivqImm (imm : Byte) (y z : Reg) (s : State) : Result :=
  s.idivBy (encodeWord (.idivqImm imm y z)) (signedImm imm) y z

end Sys2Proof.Machine
end

