-- ==== Sys2Proof/Machine/Bitwise.lean ====
section
/-! DEFINITION. The meanings of the bitwise and shift family (opcodes 0x50 to 0x54, 0x5A to 0x5C, 0x5E; rules R130 to R140)
and of the load-immediate family (opcodes 0x56, 0x57, 0x5D; rules R150 to R153). -/

namespace Sys2Proof.Machine

/-! ### Shared bodies -/

/-- A result that sets ZF only and goes to register `z` (rules R130 to R132, R150, R151). -/
def State.zeroFlagResult (s : State) (r : Quad) (z : Reg) : Result :=
  .next (((s.setFlags (zeroFlag s.flags r)).setReg z r).advance)

/-- `pat_64(2^c * u(b))`, zero for a count of 64 or more (rule R133). -/
def shiftLeft (c : Nat) (b : Quad) : Quad := if 64 ≤ c then 0#64 else pat64 (2 ^ c * b.toNat : Nat)

/-- `pat_64(u(b) div 2^c)`, zero for a count of 64 or more (rule R135). -/
def shiftRight (c : Nat) (b : Quad) : Quad := if 64 ≤ c then 0#64 else pat64 (b.toNat / 2 ^ c : Nat)

/-- `pat_64(floor(s(b) / 2^c))`, the floor towards minus infinity; for a count of 63 or more all bits are the sign (rule R137). -/
def shiftRightArith (c : Nat) (b : Quad) : Quad :=
  if 63 ≤ c then (if b.toInt < 0 then pat64 (-1) else 0#64) else pat64 (b.toInt / 2 ^ c)

/-- `shlq` by count `c` (rules R133, R134). -/
def State.shlBy (s : State) (c : Nat) (y z : Reg) : Result :=
  .next (((s.setFlags (shlFlags s.flags c (s.reg y))).setReg z (shiftLeft c (s.reg y))).advance)

/-- `shrq` by count `c`; no flag (rules R135, R136). -/
def State.shrBy (s : State) (c : Nat) (y z : Reg) : Result :=
  .next ((s.setReg z (shiftRight c (s.reg y))).advance)

/-- `sarq` by count `c`; no flag (rules R137, R138). -/
def State.sarBy (s : State) (c : Nat) (y z : Reg) : Result :=
  .next ((s.setReg z (shiftRightArith c (s.reg y))).advance)

/-! ### The nine meanings of the bitwise and shift family -/

/-- `andq %x, %y, %z`, rule R130. -/
def execAndq (x y z : Reg) (s : State) : Result := s.zeroFlagResult (s.reg x &&& s.reg y) z

/-- `orq %x, %y, %z`, rule R131. -/
def execOrq (x y z : Reg) (s : State) : Result := s.zeroFlagResult (s.reg x ||| s.reg y) z

/-- `notq %x, %y`, rule R132. -/
def execNotq (x y : Reg) (s : State) : Result := s.zeroFlagResult (~~~(s.reg x)) y

/-- `shlq %x, %y, %z`, rule R133: the count is the whole 64-bit value of `%x` (rule R139). -/
def execShlqReg (x y z : Reg) (s : State) : Result := s.shlBy (s.reg x).toNat y z

/-- `shlq x, %y, %z`, rule R134. -/
def execShlqImm (imm : Byte) (y z : Reg) (s : State) : Result := s.shlBy imm.toNat y z

/-- `shrq %x, %y, %z`, rule R135. -/
def execShrqReg (x y z : Reg) (s : State) : Result := s.shrBy (s.reg x).toNat y z

/-- `shrq x, %y, %z`, rule R136. -/
def execShrqImm (imm : Byte) (y z : Reg) (s : State) : Result := s.shrBy imm.toNat y z

/-- `sarq %x, %y, %z`, rule R137. -/
def execSarqReg (x y z : Reg) (s : State) : Result := s.sarBy (s.reg x).toNat y z

/-- `sarq x, %y, %z`, rule R138. -/
def execSarqImm (imm : Byte) (y z : Reg) (s : State) : Result := s.sarBy imm.toNat y z

/-! ### The three meanings of the load-immediate family -/

/-- `ldzwq xy, %z`, rule R150. -/
def execLdzwq (imm : BitVec 16) (z : Reg) (s : State) : Result := s.zeroFlagResult (unsignedImm16 imm) z

/-- `ldsq xy, %z`, rule R151. -/
def execLdsq (imm : BitVec 16) (z : Reg) (s : State) : Result := s.zeroFlagResult (signedImm16 imm) z

/-- `old[47:0] : (X : Y)`, that is `pat_64(u(old) * 2^16 + u(X : Y))` (rule R152). -/
def shiftInWord (old : Quad) (imm : BitVec 16) : Quad := pat64 (old.toNat * 2 ^ 16 + imm.toNat : Nat)

/-- `shldwq xy, %z`, rule R152. -/
def execShldwq (imm : BitVec 16) (z : Reg) (s : State) : Result :=
  .next (((s.setFlags (shldwFlags s.flags (s.reg z) (shiftInWord (s.reg z) imm))).setReg z
    (shiftInWord (s.reg z) imm)).advance)

end Sys2Proof.Machine
end

