-- ==== Sys2Proof/Machine/Jumps.lean ====
section
/-! DEFINITION. The meanings of the jumps (opcodes 0x40 to 0x4B; rules R160 to R174). No jump writes a flag (rule R160 (a));
the target is not checked by the jump (rule R160 (e)). -/

namespace Sys2Proof.Machine

/-- A conditional relative jump: to the target where the condition is met, else the sequential advance (rule R160 (c), (d)). -/
def State.jumpIf (s : State) (cond : Bool) (rel : BitVec 26) : Result :=
  if cond then .next (s.setPc (s.relTarget rel)) else .next s.advance

/-- `jmp %x, %y`, rule R161: the target is read before the link is written (rule R17); with x = y, not 0, the model goes by
JMP_SAME_REG (D19). -/
def execJmpReg (x y : Reg) (s : State) : Result :=
  if x = y ∧ x ≠ 0#8 ∧ s.params.jmpSameReg = .refuse then
    .refused (.jmpSameRegister s.pc (encodeWord (.jmpReg x y)))
  else .next ((s.setReg y s.nextPc).setPc (s.reg x))

/-- `jmp xyz`, rule R162. -/
def execJmpRel (rel : BitVec 26) (s : State) : Result := .next (s.setPc (s.relTarget rel))

/-- `je xyz` (`jz`), rule R163. -/
def execJe (rel : BitVec 26) (s : State) : Result := s.jumpIf (condE s.flags) rel

/-- `jne xyz` (`jnz`), rule R164. -/
def execJne (rel : BitVec 26) (s : State) : Result := s.jumpIf (condNe s.flags) rel

/-- `jl xyz` (`jnge`), rule R165. -/
def execJl (rel : BitVec 26) (s : State) : Result := s.jumpIf (condL s.flags) rel

/-- `jge xyz` (`jnl`), rule R166. -/
def execJge (rel : BitVec 26) (s : State) : Result := s.jumpIf (condGe s.flags) rel

/-- `jle xyz` (`jng`), rule R167. -/
def execJle (rel : BitVec 26) (s : State) : Result := s.jumpIf (condLe s.flags) rel

/-- `jg xyz` (`jnle`), rule R168. -/
def execJg (rel : BitVec 26) (s : State) : Result := s.jumpIf (condG s.flags) rel

/-- `jb xyz` (`jnae`), rule R169. -/
def execJb (rel : BitVec 26) (s : State) : Result := s.jumpIf (condB s.flags) rel

/-- `jae xyz` (`jnb`), rule R170. -/
def execJae (rel : BitVec 26) (s : State) : Result := s.jumpIf (condAe s.flags) rel

/-- `jna xyz` (`jbe`), rule R171. -/
def execJna (rel : BitVec 26) (s : State) : Result := s.jumpIf (condNa s.flags) rel

/-- `ja xyz` (`jnbe`), rule R172. -/
def execJa (rel : BitVec 26) (s : State) : Result := s.jumpIf (condA s.flags) rel

end Sys2Proof.Machine
end

