-- ==== Sys2Proof/Machine/Loads.lean ====
section
/-! DEFINITION. The meanings of the 35 loads (opcodes 0x10 to 0x1F, 0x80 to 0x87, 0xA0 to 0xA7, 0xC0 to 0xC7; rules R190 to
R226): an address form, a width, an extension. No load writes a flag or an address register (rule R190 (c), (d)). -/

namespace Sys2Proof.Machine

/-! ### movq -/

/-- `movq (%x, %y), %z`, rule R191. -/
def execMovqLoadIndexed (base offset z : Reg) (s : State) : Result :=
  s.load (s.addrIndexed base offset) 8 zeroExtend z

/-- `movq x(%y), %z`, rule R192. -/
def execMovqLoadDisp (disp : Byte) (base z : Reg) (s : State) : Result :=
  s.load (s.addrDisp disp base) 8 zeroExtend z

/-- `movq (%x, %y, 2), %z`, rule R193. -/
def execMovqLoadScaled2 (base offset z : Reg) (s : State) : Result :=
  s.load (s.addrScaled base 2 offset) 8 zeroExtend z

/-- `movq (%x, %y, 4), %z`, rule R194. -/
def execMovqLoadScaled4 (base offset z : Reg) (s : State) : Result :=
  s.load (s.addrScaled base 4 offset) 8 zeroExtend z

/-- `movq (%x, %y, 8), %z`, rule R195. -/
def execMovqLoadScaled8 (base offset z : Reg) (s : State) : Result :=
  s.load (s.addrScaled base 8 offset) 8 zeroExtend z

/-! ### movzlq -/

/-- `movzlq (%x, %y), %z`, rule R196. -/
def execMovzlqIndexed (base offset z : Reg) (s : State) : Result :=
  s.load (s.addrIndexed base offset) 4 zeroExtend z

/-- `movzlq x(%y), %z`, rule R197. -/
def execMovzlqDisp (disp : Byte) (base z : Reg) (s : State) : Result :=
  s.load (s.addrDisp disp base) 4 zeroExtend z

/-- `movzlq (%x, %y, 2), %z`, rule R198. -/
def execMovzlqScaled2 (base offset z : Reg) (s : State) : Result :=
  s.load (s.addrScaled base 2 offset) 4 zeroExtend z

/-- `movzlq (%x, %y, 4), %z`, rule R199. -/
def execMovzlqScaled4 (base offset z : Reg) (s : State) : Result :=
  s.load (s.addrScaled base 4 offset) 4 zeroExtend z

/-- `movzlq (%x, %y, 8), %z`, rule R200. -/
def execMovzlqScaled8 (base offset z : Reg) (s : State) : Result :=
  s.load (s.addrScaled base 8 offset) 4 zeroExtend z

/-! ### movzwq -/

/-- `movzwq (%x, %y), %z`, rule R201. -/
def execMovzwqIndexed (base offset z : Reg) (s : State) : Result :=
  s.load (s.addrIndexed base offset) 2 zeroExtend z

/-- `movzwq x(%y), %z`, rule R202. -/
def execMovzwqDisp (disp : Byte) (base z : Reg) (s : State) : Result :=
  s.load (s.addrDisp disp base) 2 zeroExtend z

/-- `movzwq (%x, %y, 2), %z`, rule R203. -/
def execMovzwqScaled2 (base offset z : Reg) (s : State) : Result :=
  s.load (s.addrScaled base 2 offset) 2 zeroExtend z

/-- `movzwq (%x, %y, 4), %z`, rule R204. -/
def execMovzwqScaled4 (base offset z : Reg) (s : State) : Result :=
  s.load (s.addrScaled base 4 offset) 2 zeroExtend z

/-- `movzwq (%x, %y, 8), %z`, rule R205. -/
def execMovzwqScaled8 (base offset z : Reg) (s : State) : Result :=
  s.load (s.addrScaled base 8 offset) 2 zeroExtend z

/-! ### movzbq -/

/-- `movzbq (%x, %y), %z`, rule R206. -/
def execMovzbqIndexed (base offset z : Reg) (s : State) : Result :=
  s.load (s.addrIndexed base offset) 1 zeroExtend z

/-- `movzbq x(%y), %z`, rule R207. -/
def execMovzbqDisp (disp : Byte) (base z : Reg) (s : State) : Result :=
  s.load (s.addrDisp disp base) 1 zeroExtend z

/-- `movzbq (%x, %y, 2), %z`, rule R208. -/
def execMovzbqScaled2 (base offset z : Reg) (s : State) : Result :=
  s.load (s.addrScaled base 2 offset) 1 zeroExtend z

/-- `movzbq (%x, %y, 4), %z`, rule R209. -/
def execMovzbqScaled4 (base offset z : Reg) (s : State) : Result :=
  s.load (s.addrScaled base 4 offset) 1 zeroExtend z

/-- `movzbq (%x, %y, 8), %z`, rule R210. -/
def execMovzbqScaled8 (base offset z : Reg) (s : State) : Result :=
  s.load (s.addrScaled base 8 offset) 1 zeroExtend z

/-! ### movslq -/

/-- `movslq (%x, %y), %z`, rule R211. -/
def execMovslqIndexed (base offset z : Reg) (s : State) : Result :=
  s.load (s.addrIndexed base offset) 4 (signExtend 4) z

/-- `movslq x(%y), %z`, rule R212. -/
def execMovslqDisp (disp : Byte) (base z : Reg) (s : State) : Result :=
  s.load (s.addrDisp disp base) 4 (signExtend 4) z

/-- `movslq (%x, %y, 2), %z`, rule R213. -/
def execMovslqScaled2 (base offset z : Reg) (s : State) : Result :=
  s.load (s.addrScaled base 2 offset) 4 (signExtend 4) z

/-- `movslq (%x, %y, 4), %z`, rule R214. -/
def execMovslqScaled4 (base offset z : Reg) (s : State) : Result :=
  s.load (s.addrScaled base 4 offset) 4 (signExtend 4) z

/-- `movslq (%x, %y, 8), %z`, rule R215. -/
def execMovslqScaled8 (base offset z : Reg) (s : State) : Result :=
  s.load (s.addrScaled base 8 offset) 4 (signExtend 4) z

/-! ### movswq -/

/-- `movswq (%x, %y), %z`, rule R216. -/
def execMovswqIndexed (base offset z : Reg) (s : State) : Result :=
  s.load (s.addrIndexed base offset) 2 (signExtend 2) z

/-- `movswq x(%y), %z`, rule R217. -/
def execMovswqDisp (disp : Byte) (base z : Reg) (s : State) : Result :=
  s.load (s.addrDisp disp base) 2 (signExtend 2) z

/-- `movswq (%x, %y, 2), %z`, rule R218. -/
def execMovswqScaled2 (base offset z : Reg) (s : State) : Result :=
  s.load (s.addrScaled base 2 offset) 2 (signExtend 2) z

/-- `movswq (%x, %y, 4), %z`, rule R219. -/
def execMovswqScaled4 (base offset z : Reg) (s : State) : Result :=
  s.load (s.addrScaled base 4 offset) 2 (signExtend 2) z

/-- `movswq (%x, %y, 8), %z`, rule R220. -/
def execMovswqScaled8 (base offset z : Reg) (s : State) : Result :=
  s.load (s.addrScaled base 8 offset) 2 (signExtend 2) z

/-! ### movsbq -/

/-- `movsbq (%x, %y), %z`, rule R221. -/
def execMovsbqIndexed (base offset z : Reg) (s : State) : Result :=
  s.load (s.addrIndexed base offset) 1 (signExtend 1) z

/-- `movsbq x(%y), %z`, rule R222. -/
def execMovsbqDisp (disp : Byte) (base z : Reg) (s : State) : Result :=
  s.load (s.addrDisp disp base) 1 (signExtend 1) z

/-- `movsbq (%x, %y, 2), %z`, rule R223. -/
def execMovsbqScaled2 (base offset z : Reg) (s : State) : Result :=
  s.load (s.addrScaled base 2 offset) 1 (signExtend 1) z

/-- `movsbq (%x, %y, 4), %z`, rule R224. -/
def execMovsbqScaled4 (base offset z : Reg) (s : State) : Result :=
  s.load (s.addrScaled base 4 offset) 1 (signExtend 1) z

/-- `movsbq (%x, %y, 8), %z`, rule R225. -/
def execMovsbqScaled8 (base offset z : Reg) (s : State) : Result :=
  s.load (s.addrScaled base 8 offset) 1 (signExtend 1) z

end Sys2Proof.Machine
end

