-- ==== Sys2Proof/Machine/Stores.lean ====
section
/-! DEFINITION. The meanings of the 20 stores (opcodes 0x20 to 0x23, 0x28 to 0x2B, 0x90 to 0x93, 0xB0 to 0xB3, 0xD0 to 0xD3;
rules R240 to R261): the data register is X, the address comes from Y and Z. No store writes a register or a flag (rule R240 (c)). -/

namespace Sys2Proof.Machine

/-! ### movq -/

/-- `movq %x, (%y, %z)`, rule R241. -/
def execMovqStoreIndexed (x base offset : Reg) (s : State) : Result :=
  s.store (s.addrIndexed base offset) 8 x

/-- `movq %x, y(%z)`, rule R242. -/
def execMovqStoreDisp (x : Reg) (disp : Byte) (base : Reg) (s : State) : Result :=
  s.store (s.addrDisp disp base) 8 x

/-- `movq %x, (%y, %z, 2)`, rule R243. -/
def execMovqStoreScaled2 (x base offset : Reg) (s : State) : Result :=
  s.store (s.addrScaled base 2 offset) 8 x

/-- `movq %x, (%y, %z, 4)`, rule R244. -/
def execMovqStoreScaled4 (x base offset : Reg) (s : State) : Result :=
  s.store (s.addrScaled base 4 offset) 8 x

/-- `movq %x, (%y, %z, 8)`, rule R245. -/
def execMovqStoreScaled8 (x base offset : Reg) (s : State) : Result :=
  s.store (s.addrScaled base 8 offset) 8 x

/-! ### movl -/

/-- `movl %x, (%y, %z)`, rule R246. -/
def execMovlIndexed (x base offset : Reg) (s : State) : Result :=
  s.store (s.addrIndexed base offset) 4 x

/-- `movl %x, y(%z)`, rule R247. -/
def execMovlDisp (x : Reg) (disp : Byte) (base : Reg) (s : State) : Result :=
  s.store (s.addrDisp disp base) 4 x

/-- `movl %x, (%y, %z, 2)`, rule R248. -/
def execMovlScaled2 (x base offset : Reg) (s : State) : Result :=
  s.store (s.addrScaled base 2 offset) 4 x

/-- `movl %x, (%y, %z, 4)`, rule R249. -/
def execMovlScaled4 (x base offset : Reg) (s : State) : Result :=
  s.store (s.addrScaled base 4 offset) 4 x

/-- `movl %x, (%y, %z, 8)`, rule R250. -/
def execMovlScaled8 (x base offset : Reg) (s : State) : Result :=
  s.store (s.addrScaled base 8 offset) 4 x

/-! ### movw -/

/-- `movw %x, (%y, %z)`, rule R251. -/
def execMovwIndexed (x base offset : Reg) (s : State) : Result :=
  s.store (s.addrIndexed base offset) 2 x

/-- `movw %x, y(%z)`, rule R252. -/
def execMovwDisp (x : Reg) (disp : Byte) (base : Reg) (s : State) : Result :=
  s.store (s.addrDisp disp base) 2 x

/-- `movw %x, (%y, %z, 2)`, rule R253. -/
def execMovwScaled2 (x base offset : Reg) (s : State) : Result :=
  s.store (s.addrScaled base 2 offset) 2 x

/-- `movw %x, (%y, %z, 4)`, rule R254. -/
def execMovwScaled4 (x base offset : Reg) (s : State) : Result :=
  s.store (s.addrScaled base 4 offset) 2 x

/-- `movw %x, (%y, %z, 8)`, rule R255. -/
def execMovwScaled8 (x base offset : Reg) (s : State) : Result :=
  s.store (s.addrScaled base 8 offset) 2 x

/-! ### movb -/

/-- `movb %x, (%y, %z)`, rule R256. -/
def execMovbIndexed (x base offset : Reg) (s : State) : Result :=
  s.store (s.addrIndexed base offset) 1 x

/-- `movb %x, y(%z)`, rule R257. -/
def execMovbDisp (x : Reg) (disp : Byte) (base : Reg) (s : State) : Result :=
  s.store (s.addrDisp disp base) 1 x

/-- `movb %x, (%y, %z, 2)`, rule R258. -/
def execMovbScaled2 (x base offset : Reg) (s : State) : Result :=
  s.store (s.addrScaled base 2 offset) 1 x

/-- `movb %x, (%y, %z, 4)`, rule R259. -/
def execMovbScaled4 (x base offset : Reg) (s : State) : Result :=
  s.store (s.addrScaled base 4 offset) 1 x

/-- `movb %x, (%y, %z, 8)`, rule R260. -/
def execMovbScaled8 (x base offset : Reg) (s : State) : Result :=
  s.store (s.addrScaled base 8 offset) 1 x

end Sys2Proof.Machine
end

