-- ==== Sys2Proof/Machine/Env.lean ====
section
/-! DEFINITION. The execution environment as a step meets it: the input and output devices (rule R29) and the services of
`trap` (rules R281 to R284). An answer of the environment comes first from the answers State holds prepared (rule R336:
the run is determined by the launch state, the input bytes and "the answers of the `trap` oracle"), else it is a free
value (log 33). -/

namespace Sys2Proof.Machine

/-- `Out(b)` (rule R29). -/
def State.out (s : State) (b : Byte) : State := { s with output := s.output ++ [b] }

/-- The size of the parameter block of `read` and `write` (rule R284). -/
def blockSize : Nat := 24

/-- The parameter block at `p` (rule R284): alignment to 8, then validity of the whole block, then the three fields, big
endian; the padding at offsets 4 to 7 is not read (log 32). -/
def State.request (s : State) (p : Addr) : Except Fault Request :=
  if p.toNat % 8 ≠ 0 then .error (.misalignedAccess p 8)
  else if s.valid p blockSize then
    .ok {
      fd := (BitVec.ofNat 32 (bigEndianValue (Memory.readBytes s.mem p 4))).toInt
      buf := pat64 (bigEndianValue (Memory.readBytes s.mem (pat64 (p.toNat + 8)) 8))
      nbyte := bigEndianValue (Memory.readBytes s.mem (pat64 (p.toNat + 16)) 8) }
  else .error (.memoryAccessFault p blockSize .read)

/-- The first of the `n` bytes at `a` that does not exist, if there is one (rules R282, R283). -/
def State.firstInvalid (s : State) (a : Addr) (n : Nat) : Option Addr :=
  ((List.range n).find? fun i => !inMap s.params.memValid (Memory.cell a i)).map
    fun i => BitVec.ofNat 64 (Memory.cell a i)

/-- The environment's answer to a `read`; `none` where the service has not returned (rules R282, R305). When it returns is
the environment's choice (rule R338), with and without a prepared answer. DESIGN CHOICE: without one, a service that has not
returned stays so until the environment prepares an answer (log 34). -/
def State.readAnswer (s : State) (req : Request) : Option ReadAnswer :=
  match s.readAnswers with
  | a :: _ => a
  | [] => Config.readAnswer s.freeCount req

/-- The environment's answer to a `write` of `data`; `none` where the service has not returned (rules R283, R305, R338;
log 34 as for `read`). -/
def State.writeAnswer (s : State) (req : Request) (data : List Byte) : Option WriteAnswer :=
  match s.writeAnswers with
  | a :: _ => a
  | [] => Config.writeAnswer s.freeCount req data

/-- The state once a `read` answer is used: the prepared one is gone, or one more free value is drawn. -/
def State.tookReadAnswer (s : State) : State :=
  match s.readAnswers with
  | _ :: rest => { s with readAnswers := rest }
  | [] => { s with freeCount := s.freeCount + 1 }

/-- The state once a `write` answer is used. -/
def State.tookWriteAnswer (s : State) : State :=
  match s.writeAnswers with
  | _ :: rest => { s with writeAnswers := rest }
  | [] => { s with freeCount := s.freeCount + 1 }

/-- The value a service returns on failure, `pat_64(-e)` (rules R282, R283). -/
def errnoResult (e : Errno) : Quad := pat64 (-(e.val : Int))

/-- Trap 0, `read` (rule R282): the delivered bytes (the first `nbyte` of them) are stored at the buffer and counted in
register `z`; on failure memory is unchanged; where one of the target bytes does not exist the step faults and stores
nothing; while the service has not returned nothing happens at all. -/
def State.serveRead (s : State) (req : Request) (z : Reg) : Result :=
  match s.readAnswer req with
  | none => .next s
  | some (.failed e) => .next ((s.tookReadAnswer.setReg z (errnoResult e)).advance)
  | some (.delivered bytes) =>
    let bs := bytes.take req.nbyte
    match s.firstInvalid req.buf bs.length with
    | some a => raise (.memoryAccessFault a 1 .write)
    | none =>
      .next (({ s.tookReadAnswer with mem := Memory.writeBytes s.mem req.buf bs }.setReg z
        (pat64 bs.length)).advance)

/-- Trap 1, `write` (rule R283): the first k bytes of the buffer are handed to the descriptor and k is returned in register
`z`; memory is never changed; where one of the `nbyte` source bytes does not exist the step faults. -/
def State.serveWrite (s : State) (req : Request) (z : Reg) : Result :=
  match s.firstInvalid req.buf req.nbyte with
  | some a => raise (.memoryAccessFault a 1 .read)
  | none =>
    match s.writeAnswer req (Memory.readBytes s.mem req.buf req.nbyte) with
    | none => .next s
    | some (.failed e) => .next ((s.tookWriteAnswer.setReg z (errnoResult e)).advance)
    | some (.accepted count) =>
      let k := min count req.nbyte
      .next (({ s.tookWriteAnswer with
          written := s.written ++ [WriteRecord.mk req.fd (Memory.readBytes s.mem req.buf k)] }.setReg z
        (pat64 k)).advance)

end Sys2Proof.Machine
end

