-- ==== Sys2Proof/Machine/System.lean ====
section
/-! DEFINITION. The meanings of the system and input/output family (opcodes 0x01, 0x02, 0x09, 0x60, 0x61, 0x69, 0xFF; rules
R270 to R284). No instruction of the family writes a flag. -/

namespace Sys2Proof.Machine

/-- `halt` with exit code `c` (rules R270, R271): the exit code goes to HALT_EXIT_CELL where there is one, the machine is
halted, `pc` is not advanced. -/
def State.haltWith (s : State) (c : Byte) : Result :=
  match s.params.haltExitCell with
  | none => .next { s with halted := some c }
  | some cell =>
    match s.memWrite cell 1 (c.setWidth 64) with
    | .error f => raise f
    | .ok t => .next { t with halted := some c }

/-- `halt %x`, rule R270: the low 8 bits of the register (D17). -/
def execHaltReg (x : Reg) (s : State) : Result := s.haltWith ((s.reg x).setWidth 8)

/-- `halt x`, rule R271. -/
def execHaltImm (imm : Byte) (s : State) : Result := s.haltWith imm

/-- What `getc` writes into register `x` that gets byte `b`, by GETC_UPPER (rule R272, D18; log 22). -/
def State.getcValue (s : State) (x : Reg) (b : Byte) : Quad :=
  match s.params.getcUpper with
  | .zero => b.setWidth 64
  | .preserve => (s.reg x).extractLsb' 8 56 ++ b
  | .any => Config.getcUpperBits s.freeCount ++ b

/-- One free value is drawn where GETC_UPPER is `any`. -/
def State.tookGetcBits (s : State) : State :=
  match s.params.getcUpper with
  | .zero => s
  | .preserve => s
  | .any => { s with freeCount := s.freeCount + 1 }

/-- `getc %x`, rule R272: the first byte of the input device; with none there the machine is blocked, no state changes and
`pc` stays (rules R29, R310; log 23). -/
def execGetc (x : Reg) (s : State) : Result :=
  match s.input with
  | [] => .next s
  | b :: rest => .next (({ s.tookGetcBits with input := rest }.setReg x (s.getcValue x b)).advance)

/-- `putc %x`, rule R273: the low byte. -/
def execPutcReg (x : Reg) (s : State) : Result := .next ((s.out ((s.reg x).setWidth 8)).advance)

/-- `putc x`, rule R274. -/
def execPutcImm (imm : Byte) (s : State) : Result := .next ((s.out imm).advance)

/-- `nop`, rule R275: "no effect" but the sequential advance. -/
def execNop (s : State) : Result := .next s.advance

/-- `trap %x, %y, %z`, rule R280: the number is the content of `%x`, the parameter block is at the address in `%y`, the
service's return value goes to `%z`. The checks come in the order of rule R302: number, block, buffer. -/
def execTrap (x y z : Reg) (s : State) : Result :=
  match s.params.trapTable.lookup (s.reg x).toNat with
  | none => raise (.unknownTrap s.pc (s.reg x).toNat)
  | some .undescribed => .refused (.undescribedService s.pc (s.reg x).toNat)
  | some .read =>
    match s.request (s.reg y) with
    | .error f => raise f
    | .ok req => s.serveRead req z
  | some .write =>
    match s.request (s.reg y) with
    | .error f => raise f
    | .ok req => s.serveWrite req z

end Sys2Proof.Machine
end

