-- ==== Sys2Proof/Machine/Dispatch.lean ====
section
/-! DEFINITION. The dispatch: one arm per instruction, each one direct call of its meaning. -/

namespace Sys2Proof.Machine

def exec (i : Instr) (s : State) : Host.Outcome State Fault Refusal :=
  match i with
  | .haltReg x => Sys2Proof.Machine.execHaltReg x s
  | .trap x y z => Sys2Proof.Machine.execTrap x y z s
  | .haltImm imm => Sys2Proof.Machine.execHaltImm imm s
  | .movqLoadIndexed base offset z => Sys2Proof.Machine.execMovqLoadIndexed base offset z s
  | .movzlqIndexed base offset z => Sys2Proof.Machine.execMovzlqIndexed base offset z s
  | .movzwqIndexed base offset z => Sys2Proof.Machine.execMovzwqIndexed base offset z s
  | .movzbqIndexed base offset z => Sys2Proof.Machine.execMovzbqIndexed base offset z s
  | .movslqIndexed base offset z => Sys2Proof.Machine.execMovslqIndexed base offset z s
  | .movswqIndexed base offset z => Sys2Proof.Machine.execMovswqIndexed base offset z s
  | .movsbqIndexed base offset z => Sys2Proof.Machine.execMovsbqIndexed base offset z s
  | .movqLoadDisp disp base z => Sys2Proof.Machine.execMovqLoadDisp disp base z s
  | .movzlqDisp disp base z => Sys2Proof.Machine.execMovzlqDisp disp base z s
  | .movzwqDisp disp base z => Sys2Proof.Machine.execMovzwqDisp disp base z s
  | .movzbqDisp disp base z => Sys2Proof.Machine.execMovzbqDisp disp base z s
  | .movslqDisp disp base z => Sys2Proof.Machine.execMovslqDisp disp base z s
  | .movswqDisp disp base z => Sys2Proof.Machine.execMovswqDisp disp base z s
  | .movsbqDisp disp base z => Sys2Proof.Machine.execMovsbqDisp disp base z s
  | .movqStoreIndexed x base offset => Sys2Proof.Machine.execMovqStoreIndexed x base offset s
  | .movlIndexed x base offset => Sys2Proof.Machine.execMovlIndexed x base offset s
  | .movwIndexed x base offset => Sys2Proof.Machine.execMovwIndexed x base offset s
  | .movbIndexed x base offset => Sys2Proof.Machine.execMovbIndexed x base offset s
  | .movqStoreDisp x disp base => Sys2Proof.Machine.execMovqStoreDisp x disp base s
  | .movlDisp x disp base => Sys2Proof.Machine.execMovlDisp x disp base s
  | .movwDisp x disp base => Sys2Proof.Machine.execMovwDisp x disp base s
  | .movbDisp x disp base => Sys2Proof.Machine.execMovbDisp x disp base s
  | .addqReg x y z => Sys2Proof.Machine.execAddqReg x y z s
  | .subqReg x y z => Sys2Proof.Machine.execSubqReg x y z s
  | .mulqReg x y z => Sys2Proof.Machine.execMulqReg x y z s
  | .divqReg x y z => Sys2Proof.Machine.execDivqReg x y z s
  | .imulqReg x y z => Sys2Proof.Machine.execImulqReg x y z s
  | .idivqReg x y z => Sys2Proof.Machine.execIdivqReg x y z s
  | .addqImm imm y z => Sys2Proof.Machine.execAddqImm imm y z s
  | .subqImm imm y z => Sys2Proof.Machine.execSubqImm imm y z s
  | .mulqImm imm y z => Sys2Proof.Machine.execMulqImm imm y z s
  | .divqImm imm y z => Sys2Proof.Machine.execDivqImm imm y z s
  | .imulqImm imm y z => Sys2Proof.Machine.execImulqImm imm y z s
  | .idivqImm imm y z => Sys2Proof.Machine.execIdivqImm imm y z s
  | .jmpReg x y => Sys2Proof.Machine.execJmpReg x y s
  | .jmpRel rel => Sys2Proof.Machine.execJmpRel rel s
  | .je rel => Sys2Proof.Machine.execJe rel s
  | .jne rel => Sys2Proof.Machine.execJne rel s
  | .jl rel => Sys2Proof.Machine.execJl rel s
  | .jge rel => Sys2Proof.Machine.execJge rel s
  | .jle rel => Sys2Proof.Machine.execJle rel s
  | .jg rel => Sys2Proof.Machine.execJg rel s
  | .jb rel => Sys2Proof.Machine.execJb rel s
  | .jae rel => Sys2Proof.Machine.execJae rel s
  | .jna rel => Sys2Proof.Machine.execJna rel s
  | .ja rel => Sys2Proof.Machine.execJa rel s
  | .orq x y z => Sys2Proof.Machine.execOrq x y z s
  | .andq x y z => Sys2Proof.Machine.execAndq x y z s
  | .shlqReg x y z => Sys2Proof.Machine.execShlqReg x y z s
  | .shrqReg x y z => Sys2Proof.Machine.execShrqReg x y z s
  | .sarqReg x y z => Sys2Proof.Machine.execSarqReg x y z s
  | .ldzwq imm z => Sys2Proof.Machine.execLdzwq imm z s
  | .ldsq imm z => Sys2Proof.Machine.execLdsq imm z s
  | .shlqImm imm y z => Sys2Proof.Machine.execShlqImm imm y z s
  | .shrqImm imm y z => Sys2Proof.Machine.execShrqImm imm y z s
  | .sarqImm imm y z => Sys2Proof.Machine.execSarqImm imm y z s
  | .shldwq imm z => Sys2Proof.Machine.execShldwq imm z s
  | .notq x y => Sys2Proof.Machine.execNotq x y s
  | .getc x => Sys2Proof.Machine.execGetc x s
  | .putcReg x => Sys2Proof.Machine.execPutcReg x s
  | .putcImm imm => Sys2Proof.Machine.execPutcImm imm s
  | .movqLoadScaled2 base offset z => Sys2Proof.Machine.execMovqLoadScaled2 base offset z s
  | .movzlqScaled2 base offset z => Sys2Proof.Machine.execMovzlqScaled2 base offset z s
  | .movzwqScaled2 base offset z => Sys2Proof.Machine.execMovzwqScaled2 base offset z s
  | .movzbqScaled2 base offset z => Sys2Proof.Machine.execMovzbqScaled2 base offset z s
  | .movslqScaled2 base offset z => Sys2Proof.Machine.execMovslqScaled2 base offset z s
  | .movswqScaled2 base offset z => Sys2Proof.Machine.execMovswqScaled2 base offset z s
  | .movsbqScaled2 base offset z => Sys2Proof.Machine.execMovsbqScaled2 base offset z s
  | .movqStoreScaled2 x base offset => Sys2Proof.Machine.execMovqStoreScaled2 x base offset s
  | .movlScaled2 x base offset => Sys2Proof.Machine.execMovlScaled2 x base offset s
  | .movwScaled2 x base offset => Sys2Proof.Machine.execMovwScaled2 x base offset s
  | .movbScaled2 x base offset => Sys2Proof.Machine.execMovbScaled2 x base offset s
  | .movqLoadScaled4 base offset z => Sys2Proof.Machine.execMovqLoadScaled4 base offset z s
  | .movzlqScaled4 base offset z => Sys2Proof.Machine.execMovzlqScaled4 base offset z s
  | .movzwqScaled4 base offset z => Sys2Proof.Machine.execMovzwqScaled4 base offset z s
  | .movzbqScaled4 base offset z => Sys2Proof.Machine.execMovzbqScaled4 base offset z s
  | .movslqScaled4 base offset z => Sys2Proof.Machine.execMovslqScaled4 base offset z s
  | .movswqScaled4 base offset z => Sys2Proof.Machine.execMovswqScaled4 base offset z s
  | .movsbqScaled4 base offset z => Sys2Proof.Machine.execMovsbqScaled4 base offset z s
  | .movqStoreScaled4 x base offset => Sys2Proof.Machine.execMovqStoreScaled4 x base offset s
  | .movlScaled4 x base offset => Sys2Proof.Machine.execMovlScaled4 x base offset s
  | .movwScaled4 x base offset => Sys2Proof.Machine.execMovwScaled4 x base offset s
  | .movbScaled4 x base offset => Sys2Proof.Machine.execMovbScaled4 x base offset s
  | .movqLoadScaled8 base offset z => Sys2Proof.Machine.execMovqLoadScaled8 base offset z s
  | .movzlqScaled8 base offset z => Sys2Proof.Machine.execMovzlqScaled8 base offset z s
  | .movzwqScaled8 base offset z => Sys2Proof.Machine.execMovzwqScaled8 base offset z s
  | .movzbqScaled8 base offset z => Sys2Proof.Machine.execMovzbqScaled8 base offset z s
  | .movslqScaled8 base offset z => Sys2Proof.Machine.execMovslqScaled8 base offset z s
  | .movswqScaled8 base offset z => Sys2Proof.Machine.execMovswqScaled8 base offset z s
  | .movsbqScaled8 base offset z => Sys2Proof.Machine.execMovsbqScaled8 base offset z s
  | .movqStoreScaled8 x base offset => Sys2Proof.Machine.execMovqStoreScaled8 x base offset s
  | .movlScaled8 x base offset => Sys2Proof.Machine.execMovlScaled8 x base offset s
  | .movwScaled8 x base offset => Sys2Proof.Machine.execMovwScaled8 x base offset s
  | .movbScaled8 x base offset => Sys2Proof.Machine.execMovbScaled8 x base offset s
  | .nop => Sys2Proof.Machine.execNop s

end Sys2Proof.Machine
end

