-- ==== Sys2Proof/Machine/Fetch.lean ====
section
/-! DEFINITION. Fetching and decoding the instruction at `pc` (rules R42, R60, R61, R80, R81), and placing an instruction
word where the next step fetches it. -/

namespace Sys2Proof.Machine

/-- The four bytes at `pc`, Op first (rule R42), after the checks of the fetch in the order of rule R60. -/
def State.fetchBytes (s : State) : Except Fault (List Byte) :=
  if s.pc.toNat % 4 ≠ 0 then .error (.misalignedFetch s.pc)
  else if s.valid s.pc 4 then .ok (Memory.readBytes s.mem s.pc 4)
  else .error (.memoryAccessFault s.pc 4 .fetch)

/-- Whether the word's unused operand bytes are acceptable under UNUSED_FIELDS (rule R81, D4). -/
def State.acceptsUnused (s : State) (i : Instr) (bytes : List Byte) : Bool :=
  match s.params.unusedFields with
  | .ignore => true
  | .refuseNonzero =>
    match bytes with
    | [_, x, y, z] => unusedBytesZero i x y z
    | _ => false

/-- The instruction at `pc` (rule R60), or the fault that the fetch or the decoding raises. -/
def State.fetchInstr (s : State) : Except Fault Instr :=
  match s.fetchBytes with
  | .error f => .error f
  | .ok bytes =>
    match decode bytes with
    | .error _ => .error (.illegalInstruction s.pc (BitVec.ofNat 32 (bigEndianValue bytes)))
    | .ok (i, _) =>
      if s.acceptsUnused i bytes then .ok i
      else .error (.illegalInstruction s.pc (BitVec.ofNat 32 (bigEndianValue bytes)))

/-- The instruction word `w` of a row of `nbits` bits placed at `pc`, Op first: the bits above `nbits` are 0. -/
def State.placeWord (s : State) (nbits w : Nat) : State :=
  { s with mem := Memory.writeBytes s.mem s.pc (wordBytes (BitVec.ofNat 32 (w % 2 ^ nbits))) }

end Sys2Proof.Machine
end

