-- ==== Sys2Proof/Machine/Step.lean ====
section
/-! DEFINITION. One step of the ULM (rule R60). -/

namespace Sys2Proof.Machine

/-- One step (rule R60): a halted machine takes no further step, its state stays as it is (rule R30; log 24); else fetch and
decode, then the instruction's own rule, which advances or assigns `pc` itself (rule R62). -/
def step (s : State) : Host.Outcome State Fault Refusal :=
  match s.halted with
  | some _ => .next s
  | none =>
    match s.fetchInstr with
    | .error f => raise f
    | .ok i => exec i s

/-- The state with the table word `w` stored where `step` fetches its next instruction. -/
def State.withFetchWord (s : State) (nbits w : Nat) : State := s.placeWord nbits w

end Sys2Proof.Machine
end

