-- ==== Sys2Proof/Machine/Launch.lean ====
section
/-! DEFINITION. The launch: what the execution environment hands to the first step (rules R33, R330 to R333), with the
parameters of rule R4 that shape it. `State.reset` is the launch of the defaults with an empty image. -/

namespace Sys2Proof.Machine

/-- The launch parameters of rule R4 and what the environment supplies (rule R33). -/
structure Launch where
  /-- LOAD_BASE, where the image is placed (rule R333). -/
  loadBase : Addr
  /-- The program image: instructions and initialised data, in address order (rule R333). -/
  image : List Byte
  /-- ENTRY_IP (rule R331). -/
  entryIp : Addr
  /-- INIT_REGS, `x[1]` to `x[255]` (rule R33). -/
  initRegs : Vector Quad 255
  /-- INIT_FLAGS (rule R33). -/
  initFlags : Flags
  /-- INIT_MEM, memory outside the image (rule R33). -/
  initMem : Memory
  /-- The parameters a step consults. -/
  params : Params
  /-- What the environment supplies to the input device. -/
  input : List Byte
  /-- The answers the environment has prepared for `read` services. -/
  readAnswers : List (Option ReadAnswer)
  /-- The answers the environment has prepared for `write` services. -/
  writeAnswers : List (Option WriteAnswer)
deriving DecidableEq, Repr

/-- The defaults of rules R4 and R33, with no image and nothing supplied by the environment (log 14, 15, 43). -/
def Launch.default : Launch where
  loadBase := 0#64
  image := []
  entryIp := 0#64
  initRegs := Vector.replicate 255 0#64
  initFlags := ⟨false, false, false, false⟩
  initMem := []
  params := Params.default
  input := []
  readAnswers := []
  writeAnswers := []

/-- The state before the first step (rules R33, R330 to R333): running, nothing written by `putc` or `write`. -/
def State.launch (l : Launch) : State where
  regs := l.initRegs
  pc := l.entryIp
  flags := l.initFlags
  mem := Memory.writeBytes l.initMem l.loadBase l.image
  halted := none
  input := l.input
  output := []
  written := []
  readAnswers := l.readAnswers
  writeAnswers := l.writeAnswers
  params := l.params
  freeCount := 0

end Sys2Proof.Machine
end

