-- ==== Sys2Proof/Safety.lean ====
section
/-! DEFINITION. The terms in which claims speak: what a step leaves alone, which flags, registers and bytes an instruction
may change, the invariant of the machine, safe runs. -/

namespace Sys2Proof.Machine

/-! ### Comparing two states -/

/-- The register file of `t` is that of `s` but for the registers listed, each with its new value; register 0 reads 0
whatever is listed (rule R22). -/
def registersAfter (s t : State) (ws : List (Reg × Quad)) : Prop :=
  ∀ r : Reg, t.reg r = if r = 0#8 then 0#64 else (ws.lookup r).getD (s.reg r)

/-- Every byte of memory reads as before. -/
def sameMemory (s t : State) : Prop := ∀ a : Nat, Memory.byteAt t.mem a = Memory.byteAt s.mem a

/-- All that is not registers, `pc`, flags or memory is as before: the halted mark, both devices, the data of `write`
services, the prepared answers, the parameters, the count of free values. -/
def sameOutside (s t : State) : Prop :=
  t.halted = s.halted ∧ t.input = s.input ∧ t.output = s.output ∧ t.written = s.written ∧
    t.readAnswers = s.readAnswers ∧ t.writeAnswers = s.writeAnswers ∧ t.params = s.params ∧ t.freeCount = s.freeCount

/-- `t` is `s` with the listed registers written and the flags `f`, whatever `pc` is. -/
def registerResult (s t : State) (ws : List (Reg × Quad)) (f : Flags) : Prop :=
  registersAfter s t ws ∧ t.flags = f ∧ sameMemory s t ∧ sameOutside s t

/-- `pc` has advanced to the next instruction, modulo 2^64 (rule R62). -/
def advanced (s t : State) : Prop := t.pc.toNat = (s.pc.toNat + 4) % 2 ^ 64

/-- The `n` bytes at `a` are the low `n` bytes of `v`, most significant first, and every other byte reads as before. -/
def storedAt (s t : State) (a : Addr) (n : Nat) (v : Quad) : Prop :=
  (∀ i, i < n → Memory.byteAt t.mem (Memory.cell a i) = v.extractLsb' (8 * (n - 1 - i)) 8) ∧
    ∀ k, (∀ i, i < n → k ≠ Memory.cell a i) → Memory.byteAt t.mem k = Memory.byteAt s.mem k

/-- `u(M_n(a))` by the sum of rule R41. -/
def datum (m : Memory) (a : Addr) (n : Nat) : Nat :=
  ((List.range n).map fun i => (Memory.byteAt m (Memory.cell a i)).toNat * 256 ^ (n - 1 - i)).sum

/-- The `n` bytes at `a` exist and `a` is a multiple of `n`: what rules R43 and R44 ask of a data access. -/
def accessible (s : State) (a : Addr) (n : Nat) : Prop :=
  a.toNat % n = 0 ∧ ∀ i, i < n → inMap s.params.memValid (Memory.cell a i) = true

/-! ### What an instruction may change -/

/-- The entries `w` of the table of rule R26. -/
structure FlagSet where
  zf : Bool
  cf : Bool
  of : Bool
  sf : Bool
deriving DecidableEq, Repr

/-- Which flags an instruction writes: the table of rule R26. -/
def writtenFlags : Instr → FlagSet
  | .addqReg .. | .subqReg .. | .addqImm .. | .subqImm .. => ⟨true, true, true, true⟩
  | .mulqReg .. | .imulqReg .. | .mulqImm .. | .imulqImm .. => ⟨false, true, true, false⟩
  | .orq .. | .andq .. | .ldzwq .. | .ldsq .. | .notq .. => ⟨true, false, false, false⟩
  | .shlqReg .. | .shlqImm .. => ⟨false, true, false, false⟩
  | .shldwq .. => ⟨true, true, false, false⟩
  | .haltReg .. | .trap .. | .haltImm .. | .movqLoadIndexed .. | .movzlqIndexed .. | .movzwqIndexed ..
  | .movzbqIndexed .. | .movslqIndexed .. | .movswqIndexed .. | .movsbqIndexed .. | .movqLoadDisp .. | .movzlqDisp ..
  | .movzwqDisp .. | .movzbqDisp .. | .movslqDisp .. | .movswqDisp .. | .movsbqDisp .. | .movqStoreIndexed ..
  | .movlIndexed .. | .movwIndexed .. | .movbIndexed .. | .movqStoreDisp .. | .movlDisp .. | .movwDisp ..
  | .movbDisp .. | .divqReg .. | .idivqReg .. | .divqImm .. | .idivqImm .. | .jmpReg .. | .jmpRel .. | .je ..
  | .jne .. | .jl .. | .jge .. | .jle .. | .jg .. | .jb .. | .jae .. | .jna .. | .ja .. | .shrqReg .. | .sarqReg ..
  | .shrqImm .. | .sarqImm .. | .getc .. | .putcReg .. | .putcImm .. | .movqLoadScaled2 .. | .movzlqScaled2 ..
  | .movzwqScaled2 .. | .movzbqScaled2 .. | .movslqScaled2 .. | .movswqScaled2 .. | .movsbqScaled2 ..
  | .movqStoreScaled2 .. | .movlScaled2 .. | .movwScaled2 .. | .movbScaled2 .. | .movqLoadScaled4 ..
  | .movzlqScaled4 .. | .movzwqScaled4 .. | .movzbqScaled4 .. | .movslqScaled4 .. | .movswqScaled4 ..
  | .movsbqScaled4 .. | .movqStoreScaled4 .. | .movlScaled4 .. | .movwScaled4 .. | .movbScaled4 ..
  | .movqLoadScaled8 .. | .movzlqScaled8 .. | .movzwqScaled8 .. | .movzbqScaled8 .. | .movslqScaled8 ..
  | .movswqScaled8 .. | .movsbqScaled8 .. | .movqStoreScaled8 .. | .movlScaled8 .. | .movwScaled8 ..
  | .movbScaled8 .. | .nop => ⟨false, false, false, false⟩

/-- Which registers an instruction may write (rules R23, R101); register numbers of a pair or triple modulo 256. -/
def destinations : Instr → List Reg
  | .mulqReg _ _ z | .idivqReg _ _ z | .mulqImm _ _ z | .idivqImm _ _ z => [z, z + 1#8]
  | .divqReg _ _ z | .divqImm _ _ z => [z, z + 1#8, z + 2#8]
  | .trap _ _ z | .movqLoadIndexed _ _ z | .movzlqIndexed _ _ z | .movzwqIndexed _ _ z | .movzbqIndexed _ _ z
  | .movslqIndexed _ _ z | .movswqIndexed _ _ z | .movsbqIndexed _ _ z | .movqLoadDisp _ _ z | .movzlqDisp _ _ z
  | .movzwqDisp _ _ z | .movzbqDisp _ _ z | .movslqDisp _ _ z | .movswqDisp _ _ z | .movsbqDisp _ _ z
  | .addqReg _ _ z | .subqReg _ _ z | .imulqReg _ _ z | .addqImm _ _ z | .subqImm _ _ z | .imulqImm _ _ z
  | .orq _ _ z | .andq _ _ z | .shlqReg _ _ z | .shrqReg _ _ z | .sarqReg _ _ z | .shlqImm _ _ z | .shrqImm _ _ z
  | .sarqImm _ _ z | .movqLoadScaled2 _ _ z | .movzlqScaled2 _ _ z | .movzwqScaled2 _ _ z | .movzbqScaled2 _ _ z
  | .movslqScaled2 _ _ z | .movswqScaled2 _ _ z | .movsbqScaled2 _ _ z | .movqLoadScaled4 _ _ z
  | .movzlqScaled4 _ _ z | .movzwqScaled4 _ _ z | .movzbqScaled4 _ _ z | .movslqScaled4 _ _ z | .movswqScaled4 _ _ z
  | .movsbqScaled4 _ _ z | .movqLoadScaled8 _ _ z | .movzlqScaled8 _ _ z | .movzwqScaled8 _ _ z
  | .movzbqScaled8 _ _ z | .movslqScaled8 _ _ z | .movswqScaled8 _ _ z | .movsbqScaled8 _ _ z => [z]
  | .ldzwq _ z | .ldsq _ z | .shldwq _ z => [z]
  | .jmpReg _ y | .notq _ y => [y]
  | .getc x => [x]
  | .haltReg .. | .haltImm .. | .movqStoreIndexed .. | .movlIndexed .. | .movwIndexed .. | .movbIndexed ..
  | .movqStoreDisp .. | .movlDisp .. | .movwDisp .. | .movbDisp .. | .jmpRel .. | .je .. | .jne .. | .jl .. | .jge ..
  | .jle .. | .jg .. | .jb .. | .jae .. | .jna .. | .ja .. | .putcReg .. | .putcImm .. | .movqStoreScaled2 ..
  | .movlScaled2 .. | .movwScaled2 .. | .movbScaled2 .. | .movqStoreScaled4 .. | .movlScaled4 .. | .movwScaled4 ..
  | .movbScaled4 .. | .movqStoreScaled8 .. | .movlScaled8 .. | .movwScaled8 .. | .movbScaled8 .. | .nop => []

/-- The one data access of a load or a store: its kind, its address, its width (rules R190, R240). -/
def dataAccess (s : State) : Instr → Option (AccessKind × Addr × Nat)
  | .movqLoadIndexed base offset _ => some (.read, s.addrIndexed base offset, 8)
  | .movzlqIndexed base offset _ => some (.read, s.addrIndexed base offset, 4)
  | .movzwqIndexed base offset _ => some (.read, s.addrIndexed base offset, 2)
  | .movzbqIndexed base offset _ => some (.read, s.addrIndexed base offset, 1)
  | .movslqIndexed base offset _ => some (.read, s.addrIndexed base offset, 4)
  | .movswqIndexed base offset _ => some (.read, s.addrIndexed base offset, 2)
  | .movsbqIndexed base offset _ => some (.read, s.addrIndexed base offset, 1)
  | .movqLoadDisp disp base _ => some (.read, s.addrDisp disp base, 8)
  | .movzlqDisp disp base _ => some (.read, s.addrDisp disp base, 4)
  | .movzwqDisp disp base _ => some (.read, s.addrDisp disp base, 2)
  | .movzbqDisp disp base _ => some (.read, s.addrDisp disp base, 1)
  | .movslqDisp disp base _ => some (.read, s.addrDisp disp base, 4)
  | .movswqDisp disp base _ => some (.read, s.addrDisp disp base, 2)
  | .movsbqDisp disp base _ => some (.read, s.addrDisp disp base, 1)
  | .movqStoreIndexed _ base offset => some (.write, s.addrIndexed base offset, 8)
  | .movlIndexed _ base offset => some (.write, s.addrIndexed base offset, 4)
  | .movwIndexed _ base offset => some (.write, s.addrIndexed base offset, 2)
  | .movbIndexed _ base offset => some (.write, s.addrIndexed base offset, 1)
  | .movqStoreDisp _ disp base => some (.write, s.addrDisp disp base, 8)
  | .movlDisp _ disp base => some (.write, s.addrDisp disp base, 4)
  | .movwDisp _ disp base => some (.write, s.addrDisp disp base, 2)
  | .movbDisp _ disp base => some (.write, s.addrDisp disp base, 1)
  | .movqLoadScaled2 base offset _ => some (.read, s.addrScaled base 2 offset, 8)
  | .movzlqScaled2 base offset _ => some (.read, s.addrScaled base 2 offset, 4)
  | .movzwqScaled2 base offset _ => some (.read, s.addrScaled base 2 offset, 2)
  | .movzbqScaled2 base offset _ => some (.read, s.addrScaled base 2 offset, 1)
  | .movslqScaled2 base offset _ => some (.read, s.addrScaled base 2 offset, 4)
  | .movswqScaled2 base offset _ => some (.read, s.addrScaled base 2 offset, 2)
  | .movsbqScaled2 base offset _ => some (.read, s.addrScaled base 2 offset, 1)
  | .movqStoreScaled2 _ base offset => some (.write, s.addrScaled base 2 offset, 8)
  | .movlScaled2 _ base offset => some (.write, s.addrScaled base 2 offset, 4)
  | .movwScaled2 _ base offset => some (.write, s.addrScaled base 2 offset, 2)
  | .movbScaled2 _ base offset => some (.write, s.addrScaled base 2 offset, 1)
  | .movqLoadScaled4 base offset _ => some (.read, s.addrScaled base 4 offset, 8)
  | .movzlqScaled4 base offset _ => some (.read, s.addrScaled base 4 offset, 4)
  | .movzwqScaled4 base offset _ => some (.read, s.addrScaled base 4 offset, 2)
  | .movzbqScaled4 base offset _ => some (.read, s.addrScaled base 4 offset, 1)
  | .movslqScaled4 base offset _ => some (.read, s.addrScaled base 4 offset, 4)
  | .movswqScaled4 base offset _ => some (.read, s.addrScaled base 4 offset, 2)
  | .movsbqScaled4 base offset _ => some (.read, s.addrScaled base 4 offset, 1)
  | .movqStoreScaled4 _ base offset => some (.write, s.addrScaled base 4 offset, 8)
  | .movlScaled4 _ base offset => some (.write, s.addrScaled base 4 offset, 4)
  | .movwScaled4 _ base offset => some (.write, s.addrScaled base 4 offset, 2)
  | .movbScaled4 _ base offset => some (.write, s.addrScaled base 4 offset, 1)
  | .movqLoadScaled8 base offset _ => some (.read, s.addrScaled base 8 offset, 8)
  | .movzlqScaled8 base offset _ => some (.read, s.addrScaled base 8 offset, 4)
  | .movzwqScaled8 base offset _ => some (.read, s.addrScaled base 8 offset, 2)
  | .movzbqScaled8 base offset _ => some (.read, s.addrScaled base 8 offset, 1)
  | .movslqScaled8 base offset _ => some (.read, s.addrScaled base 8 offset, 4)
  | .movswqScaled8 base offset _ => some (.read, s.addrScaled base 8 offset, 2)
  | .movsbqScaled8 base offset _ => some (.read, s.addrScaled base 8 offset, 1)
  | .movqStoreScaled8 _ base offset => some (.write, s.addrScaled base 8 offset, 8)
  | .movlScaled8 _ base offset => some (.write, s.addrScaled base 8 offset, 4)
  | .movwScaled8 _ base offset => some (.write, s.addrScaled base 8 offset, 2)
  | .movbScaled8 _ base offset => some (.write, s.addrScaled base 8 offset, 1)
  | .haltReg .. | .trap .. | .haltImm .. | .addqReg .. | .subqReg .. | .mulqReg .. | .divqReg .. | .imulqReg ..
  | .idivqReg .. | .addqImm .. | .subqImm .. | .mulqImm .. | .divqImm .. | .imulqImm .. | .idivqImm .. | .jmpReg ..
  | .jmpRel .. | .je .. | .jne .. | .jl .. | .jge .. | .jle .. | .jg .. | .jb .. | .jae .. | .jna .. | .ja ..
  | .orq .. | .andq .. | .shlqReg .. | .shrqReg .. | .sarqReg .. | .ldzwq .. | .ldsq .. | .shlqImm .. | .shrqImm ..
  | .sarqImm .. | .shldwq .. | .notq .. | .getc .. | .putcReg .. | .putcImm .. | .nop => none

/-- Whether an instruction assigns `pc` itself (rule R160) or leaves it in place (`halt`); every other one advances it (rule R62). -/
def advances (i : Instr) : Bool :=
  match i.format with
  | .s24 => false
  | _ => i.opcode != 0x40#8 && i.opcode != 0x01#8 && i.opcode != 0x09#8

/-- The 158 opcode values that no section defines, as first and last value of each run in the order of rule R80. -/
def undefinedRanges : List (Nat × Nat) :=
  [(0x00, 0x00), (0x03, 0x08), (0x0A, 0x0F), (0x14, 0x14), (0x1C, 0x1C), (0x24, 0x27), (0x2C, 0x2F), (0x36, 0x37),
    (0x3E, 0x3F), (0x4C, 0x4F), (0x55, 0x55), (0x58, 0x59), (0x5F, 0x5F), (0x62, 0x68), (0x6A, 0x6F), (0x70, 0x7F),
    (0x84, 0x84), (0x88, 0x8F), (0x94, 0x9F), (0xA4, 0xA4), (0xA8, 0xAF), (0xB4, 0xBF), (0xC4, 0xC4), (0xC8, 0xCF),
    (0xD4, 0xDF), (0xE0, 0xFE)]

/-- Whether an opcode value is one of the 158 of rule R80. -/
def undefinedOpcode (op : Nat) : Bool :=
  undefinedRanges.any fun r => decide (r.1 ≤ op) && decide (op ≤ r.2)

/-! ### What loads, stores and traps do -/

/-- The low `w` bits of `v` as a pattern, sign-extended to 64 bits (rules R13, R46). -/
def signExtended (w : Nat) (v : Nat) : Quad := (BitVec.ofNat w v).signExtend 64

/-- The load `i` from `a` completes wherever the access is in order: register `z` receives `f` of the datum of `n` bytes,
nothing else changes but `pc`, which advances (rules R46, R190). -/
def loadCompletes (i : Instr) (a : State → Addr) (n : Nat) (f : Nat → Quad) (z : Reg) : Prop :=
  ∀ s : State, accessible s (a s) n →
    ∃ t, exec i s = .next t ∧ registerResult s t [(z, f (datum s.mem (a s) n))] s.flags ∧ advanced s t

/-- The store `i` to `a` completes wherever the access is in order: the `n` bytes at `a` become the low bytes of register
`x`, every other byte, every register and flag and all outside stay, `pc` advances (rules R46, R240). -/
def storeCompletes (i : Instr) (a : State → Addr) (n : Nat) (x : Reg) : Prop :=
  ∀ s : State, Memory.wf s.mem → accessible s (a s) n →
    ∃ t, exec i s = .next t ∧ storedAt s t (a s) n (s.reg x) ∧ registersAfter s t [] ∧ t.flags = s.flags ∧
      sameOutside s t ∧ advanced s t

/-- The parameter block at `p`, field by field (rule R284). -/
def blockAt (s : State) (p : Addr) : Request where
  fd := (BitVec.ofNat 32 (datum s.mem p 4)).toInt
  buf := pat64 (datum s.mem (p + 8#64) 8)
  nbyte := datum s.mem (p + 16#64) 8

/-- The parameter block at `p` can be read: `p` is a multiple of 8 and its 24 bytes exist (rule R284). -/
def blockReadable (s : State) (p : Addr) : Prop :=
  p.toNat % 8 = 0 ∧ ∀ i, i < 24 → inMap s.params.memValid (Memory.cell p i) = true

/-- The first `k` bytes from `a` on exist. -/
def bytesExist (s : State) (a : Addr) (k : Nat) : Prop :=
  ∀ i, i < k → inMap s.params.memValid (Memory.cell a i) = true

/-- The byte `i` after `a` is the first one from `a` on that does not exist. -/
def firstMissing (s : State) (a : Addr) (i : Nat) : Prop :=
  inMap s.params.memValid (Memory.cell a i) = false ∧ bytesExist s a i

/-- The bytes that a `read` service stores, as first address and number: none where the number is not that of `read` or
nothing is delivered (rule R282). -/
def readBuffer (s : State) (x y : Reg) : Option (Addr × Nat) :=
  match s.params.trapTable.lookup (s.reg x).toNat, s.readAnswer (blockAt s (s.reg y)) with
  | some .read, some (.delivered bytes) => some ((blockAt s (s.reg y)).buf, min (blockAt s (s.reg y)).nbyte bytes.length)
  | _, _ => none

/-- The bytes that an instruction other than a load or a store writes to memory: the exit cell of `halt` (rules R270, R271),
the buffer of a `read` service. -/
def environmentStore (s : State) : Instr → Option (Addr × Nat)
  | .haltReg .. | .haltImm .. => s.params.haltExitCell.map fun cell => (cell, 1)
  | .trap x y _ => readBuffer s x y
  | .movqLoadIndexed .. | .movzlqIndexed .. | .movzwqIndexed .. | .movzbqIndexed .. | .movslqIndexed ..
  | .movswqIndexed .. | .movsbqIndexed .. | .movqLoadDisp .. | .movzlqDisp .. | .movzwqDisp .. | .movzbqDisp ..
  | .movslqDisp .. | .movswqDisp .. | .movsbqDisp .. | .movqStoreIndexed .. | .movlIndexed .. | .movwIndexed ..
  | .movbIndexed .. | .movqStoreDisp .. | .movlDisp .. | .movwDisp .. | .movbDisp .. | .addqReg .. | .subqReg ..
  | .mulqReg .. | .divqReg .. | .imulqReg .. | .idivqReg .. | .addqImm .. | .subqImm .. | .mulqImm .. | .divqImm ..
  | .imulqImm .. | .idivqImm .. | .jmpReg .. | .jmpRel .. | .je .. | .jne .. | .jl .. | .jge .. | .jle .. | .jg ..
  | .jb .. | .jae .. | .jna .. | .ja .. | .orq .. | .andq .. | .shlqReg .. | .shrqReg .. | .sarqReg .. | .ldzwq ..
  | .ldsq .. | .shlqImm .. | .shrqImm .. | .sarqImm .. | .shldwq .. | .notq .. | .getc .. | .putcReg .. | .putcImm ..
  | .movqLoadScaled2 .. | .movzlqScaled2 .. | .movzwqScaled2 .. | .movzbqScaled2 .. | .movslqScaled2 ..
  | .movswqScaled2 .. | .movsbqScaled2 .. | .movqStoreScaled2 .. | .movlScaled2 .. | .movwScaled2 ..
  | .movbScaled2 .. | .movqLoadScaled4 .. | .movzlqScaled4 .. | .movzwqScaled4 .. | .movzbqScaled4 ..
  | .movslqScaled4 .. | .movswqScaled4 .. | .movsbqScaled4 .. | .movqStoreScaled4 .. | .movlScaled4 ..
  | .movwScaled4 .. | .movbScaled4 .. | .movqLoadScaled8 .. | .movzlqScaled8 .. | .movzwqScaled8 ..
  | .movzbqScaled8 .. | .movslqScaled8 .. | .movswqScaled8 .. | .movsbqScaled8 .. | .movqStoreScaled8 ..
  | .movlScaled8 .. | .movwScaled8 .. | .movbScaled8 .. | .nop => none

/-- All that an instruction writes to memory, as first address and number of bytes. -/
def storedRange (s : State) (i : Instr) : Option (Addr × Nat) :=
  match dataAccess s i with
  | some (.write, a, n) => some (a, n)
  | some (.read, _, _) => none
  | some (.fetch, _, _) => none
  | none => environmentStore s i

/-- The instruction waits for the environment: a `getc` without input, a service that has not returned (rules R272, R305,
R310; logs 23, 34). -/
def waits (s : State) (i : Instr) : Prop :=
  (∃ x, i = .getc x ∧ s.input = []) ∨
  ∃ x y z, i = .trap x y z ∧
    ((s.params.trapTable.lookup (s.reg x).toNat = some .read ∧ s.readAnswer (blockAt s (s.reg y)) = none) ∨
      (s.params.trapTable.lookup (s.reg x).toNat = some .write ∧
        s.writeAnswer (blockAt s (s.reg y))
          (Memory.readBytes s.mem (blockAt s (s.reg y)).buf (blockAt s (s.reg y)).nbyte) = none))

/-! ### Sequences and runs -/

/-- The instructions of a list executed one after the other, `pc` not consulted: what straight-line idioms do. -/
def execAll : List Instr → State → Result
  | [], s => .next s
  | i :: is, s =>
    match exec i s with
    | .next t => execAll is t
    | .fault f => .fault f
    | .refused r => .refused r

/-- A safe run of `n` steps: no step faults or is refused (rule R300: "no fault outcome is reachable"). -/
def safeFor (n : Nat) (s : State) : Prop := ∃ t, Host.Core.run Sys2Proof.core n s = .next t

/-- A run is over: the machine is halted, the only final condition (rules R30, R335). -/
def finished (s : State) : Bool := s.halted.isSome

/-! ### The invariant -/

/-- Memory is in canonical form and lists no byte at an address that does not exist (rules R28, R43). -/
def memoryInvariant (s : State) : Prop := Memory.wf s.mem ∧ ∀ c ∈ s.mem, inMap s.params.memValid c.1 = true

end Sys2Proof.Machine
end

