-- ==== Sys2Proof/Certificates/Slice0/Obligations.lean ====
section
/-! DEFINITION. The statements for the provers, each a proposition about the model; OBLIGATIONS.json lists them. -/

open Sys2Proof Sys2Proof.Machine

/-- For every well-formed instruction, of all 98, with every operand at every value, decoding its encoded bytes
followed by any bytes gives the instruction and those bytes. The order of the bytes and the zeros in unused bytes are
decisions D1, D2 and D4 (logs 1, 2, 4). Rests on 30_encoding.md sections 2 to 4 (R63 to R79, R81). -/
def Obligations.DecodeEncodeRoundTrip : Prop :=
  ∀ (i : Instr) (rest : List Byte), i.wellFormed = true → decode (encode i ++ rest) = .ok (i, rest)

/-- Whatever Op, X, Y, Z decode to is well formed, has opcode Op, carries the operand bytes its format uses unchanged,
and encodes to the very same four bytes where the bytes its format does not use are 0. The place of the bytes and the
unused bytes are decisions D1 and D4 (logs 1, 4). Rests on 30_encoding.md sections 2 to 4 (R63 to R79, R81). -/
def Obligations.DecodedInstructionReencodes : Prop :=
  ∀ (op x y z : Byte) (i : Instr), decodeFields op x y z = .ok i →
    i.wellFormed = true ∧ i.opcode = op ∧
      [i.operandBytes.1, i.operandBytes.2.1, i.operandBytes.2.2].take i.format.usedBytes =
        [x, y, z].take i.format.usedBytes ∧
      (unusedBytesZero i x y z = true → encode i = [op, x, y, z])

/-- A word decodes to no instruction exactly where its Op is in the list of rule R80, which has 158 values; a running
machine that fetches such a word in order faults with IllegalInstruction, which records pc and the word. That the
outcome is a fault is decision D5 (log 5). The place of Op in the word and in memory is decisions D1 and D2 (logs 1,
2). Rests on 30_encoding.md section 4 (R80); 60_exceptions.md section 1 (R301). -/
def Obligations.UndefinedOpcodesAreIllegal : Prop :=
  (∀ (op x y z : Byte) (rest : List Byte),
    decode (op :: x :: y :: z :: rest) = .error (.undefinedOpcode op) ↔ undefinedOpcode op.toNat = true) ∧
  ((List.range 256).filter undefinedOpcode).length = 158 ∧
  ∀ s : State, s.halted = none → s.pc.toNat % 4 = 0 → bytesExist s s.pc 4 →
    undefinedOpcode (Memory.byteAt s.mem s.pc.toNat).toNat = true →
    step s = .fault (.illegalInstruction s.pc (BitVec.ofNat 32 (datum s.mem s.pc 4)))

/-- One word of each family, written out from its encoding, read by the decoder. The layout of a word and its place in
memory are decisions D1 and D2 (logs 1, 2). Rests on 95_test_vectors.md section 2;
96_test_vectors_control_memory_system.md. -/
def Obligations.WrittenOutWordsDecode : Prop :=
  decodeTableWord 32 0x30010203 = some (.addqReg 1#8 2#8 3#8) ∧
  decodeTableWord 32 0x3DFD0203 = some (.idivqImm 0xFD#8 2#8 3#8) ∧
  decodeTableWord 32 0x5E010200 = some (.notq 1#8 2#8) ∧
  decodeTableWord 32 0x56123403 = some (.ldzwq 0x1234#16 3#8) ∧
  decodeTableWord 32 0x41FFFFFE = some (.jmpRel (BitVec.ofInt 26 (-8))) ∧
  decodeTableWord 32 0x18F80203 = some (.movqLoadDisp 0xF8#8 2#8 3#8) ∧
  decodeTableWord 32 0x2B01F803 = some (.movbDisp 1#8 0xF8#8 3#8) ∧
  decodeTableWord 32 0x02010203 = some (.trap 1#8 2#8 3#8) ∧
  decodeTableWord 32 0x00010203 = none

/-- Two words with the same opcode that agree on the operand bytes their format uses decode to the same instruction.
Under UNUSED_FIELDS = refuse_nonzero a running machine faults with IllegalInstruction on a word with a nonzero unused
byte. Both are decision D4 (log 4). Rests on 30_encoding.md section 4 (R81); 93_implementation_defined.md I9. -/
def Obligations.UnusedOperandBytes : Prop :=
  (∀ (op x y z x' y' z' : Byte) (i : Instr), decodeFields op x y z = .ok i →
    [x, y, z].take i.format.usedBytes = [x', y', z'].take i.format.usedBytes →
    decodeFields op x' y' z' = .ok i) ∧
  ∀ (s : State) (i : Instr) (rest : List Byte), s.halted = none → s.pc.toNat % 4 = 0 → bytesExist s s.pc 4 →
    decode (Memory.readBytes s.mem s.pc 4) = .ok (i, rest) → s.params.unusedFields = .refuseNonzero →
    unusedBytesZero i (Memory.byteAt s.mem (Memory.cell s.pc 1)) (Memory.byteAt s.mem (Memory.cell s.pc 2))
      (Memory.byteAt s.mem (Memory.cell s.pc 3)) = false →
    step s = .fault (.illegalInstruction s.pc (BitVec.ofNat 32 (datum s.mem s.pc 4)))

/-- In a running machine with pc a multiple of 4 and its four bytes in existence, where those bytes decode to an
instruction and the bytes it does not use are ignored or 0, the step is exactly exec of that instruction: exec
advances or assigns pc itself and the step adds nothing to it. The order of the bytes in memory and the unused bytes
are decisions D2 and D4 (logs 2, 4). Rests on 30_encoding.md section 1 (R60, R62); 20_memory.md section 2 (R42). -/
def Obligations.StepRunsDecodedInstruction : Prop :=
  ∀ (s : State) (i : Instr) (rest : List Byte), s.halted = none → s.pc.toNat % 4 = 0 → bytesExist s s.pc 4 →
    decode (Memory.readBytes s.mem s.pc 4) = .ok (i, rest) →
    (s.params.unusedFields = .ignore ∨
      unusedBytesZero i (Memory.byteAt s.mem (Memory.cell s.pc 1)) (Memory.byteAt s.mem (Memory.cell s.pc 2))
        (Memory.byteAt s.mem (Memory.cell s.pc 3)) = true) →
    step s = exec i s

/-- A running machine with pc not a multiple of 4 faults with MisalignedFetch; with pc aligned and one of its four
bytes missing it faults with MemoryAccessFault(pc, 4, fetch). The outcomes are decisions D13 and D14 (logs 13, 14).
Rests on 30_encoding.md section 1 (R60, R61); 60_exceptions.md section 1 (R301, R302). -/
def Obligations.FetchChecksComeInOrder : Prop :=
  ∀ s : State, s.halted = none →
    (s.pc.toNat % 4 ≠ 0 → step s = .fault (.misalignedFetch s.pc)) ∧
    (s.pc.toNat % 4 = 0 → ¬ bytesExist s s.pc 4 → step s = .fault (.memoryAccessFault s.pc 4 .fetch))

/-- From a halted state any number of steps answers the same state. That a step of a halted machine answers its own
state, rather than none, is the model's form of "takes no further step" (log 24). Rests on 10_state.md section 6
(R30); 60_exceptions.md section 4 (R310). -/
def Obligations.HaltedMachineStaysHalted : Prop :=
  ∀ (s : State) (c : Byte) (n : Nat), s.halted = some c → Host.Core.run Sys2Proof.core n s = .next s

/-- If a step takes a running machine to a halted one, the instruction it fetched is halt %x, with the low byte of the
register as exit code, or halt x, with the immediate. The exit code as the low byte of the register is decision D17
(log 21). Rests on 10_state.md section 6 (R30); 46_system_io.md section 1 (R270, R271); 70_reset_and_hazards.md
section 1 (R335). -/
def Obligations.OnlyHaltHalts : Prop :=
  ∀ (s t : State) (c : Byte), step s = .next t → s.halted = none → t.halted = some c →
    (∃ x : Reg, s.fetchInstr = .ok (.haltReg x) ∧ c = (s.reg x).extractLsb' 0 8) ∨ s.fetchInstr = .ok (.haltImm c)

/-- Storing the word of a well-formed instruction with the 4-byte memory primitive at pc completes where the access is
in order, and the next step of a running machine runs that instruction. The placement withFetchWord is the same store.
That fetch sees stores is decision D26 (log 38). The order of the bytes in memory is decision D2 (log 2). Rests on
20_memory.md section 6 (R55); 20_memory.md section 2 (R42). -/
def Obligations.WrittenInstructionIsFetched : Prop :=
  ∀ (s : State) (i : Instr), i.wellFormed = true → Memory.wf s.mem → s.halted = none → accessible s s.pc 4 →
    s.memWrite s.pc 4 ((encodeWord i).setWidth 64) = .ok (s.withFetchWord 32 (encodeWord i).toNat) ∧
      step (s.withFetchWord 32 (encodeWord i).toNat) = exec i (s.withFetchWord 32 (encodeWord i).toNat)

/-- State.reset is the launch state of the default parameters with no image: running, no exit code, nothing written to
the output device, register 0 reading 0. The zero registers, flags, pc and memory are the model's choice (logs 14 to
18, 43), after the defaults of decision D15. Rests on 10_state.md section 7 (R33); 70_reset_and_hazards.md section 1
(R330 to R333). -/
def Obligations.ResetIsTheDefaultLaunch : Prop :=
  State.reset = State.launch Launch.default ∧ State.reset.halted = none ∧ State.reset.output = [] ∧
    State.reset.written = [] ∧ State.reset.reg 0#8 = 0#64 ∧ State.reset.pc = 0#64 ∧
    State.reset.flags = ⟨false, false, false, false⟩ ∧ (∀ r : Reg, State.reset.reg r = 0#64) ∧
    ∀ a : Nat, Memory.byteAt State.reset.mem a = 0#8

/-- Reset's memory is in canonical form and lists no byte that does not exist. Memory and MEM_VALID at reset are the
choices of logs 14 and 18. Rests on 10_state.md section 6 (R28); 20_memory.md section 3 (R43). -/
def Obligations.InvariantHoldsAtReset : Prop :=
  memoryInvariant State.reset

/-- Where the initial memory is canonical and lists only bytes that exist, and the image fits the address space and
existing bytes, the launch state meets the invariant; byte i of the image is at LOAD_BASE + i, every other byte reads
as in the initial memory, pc is ENTRY_IP, the machine runs, and neither putc nor a write service has written anything.
That the image lies at LOAD_BASE and pc is ENTRY_IP is decision D15 (logs 17, 19), what surrounds the image is
INIT_MEM of the same decision (log 18). Rests on 70_reset_and_hazards.md section 1 (R331 to R333); 10_state.md section
7 (R33). -/
def Obligations.LaunchPlacesTheImage : Prop :=
  ∀ l : Launch, Memory.wf l.initMem → (∀ c ∈ l.initMem, inMap l.params.memValid c.1 = true) →
    l.image.length ≤ 2 ^ 64 → bytesExist (State.launch l) l.loadBase l.image.length →
    memoryInvariant (State.launch l) ∧
      (∀ (i : Nat) (b : Byte), l.image[i]? = some b →
        Memory.byteAt (State.launch l).mem (Memory.cell l.loadBase i) = b) ∧
      (∀ k : Nat, (∀ i, i < l.image.length → k ≠ Memory.cell l.loadBase i) →
        Memory.byteAt (State.launch l).mem k = Memory.byteAt l.initMem k) ∧
      (State.launch l).pc = l.entryIp ∧ (State.launch l).halted = none ∧ (State.launch l).output = [] ∧
      (State.launch l).written = []

/-- For every state that meets the invariant, reached by a run or not, and under every choice of the parameters, a
step that answers a next state answers one that meets it, and leaves the parameters as they are. The canonical form
and the place of the parameters in State are the model's (logs 18, 45). Rests on 10_state.md section 6 (R28);
20_memory.md sections 3 and 6 (R43, R45, R53); 46_system_io.md (R282, R283). -/
def Obligations.StepKeepsTheInvariant : Prop :=
  ∀ s t : State, memoryInvariant s → step s = .next t → memoryInvariant t ∧ t.params = s.params

/-- If an instruction of any kind answers a next state, each flag that the table of rule R26 does not mark for it is
as before. That unnamed flags keep their values is decision D6 (log 6). Rests on 10_state.md section 4 (R26). -/
def Obligations.FlagsFrame : Prop :=
  ∀ (i : Instr) (s t : State), exec i s = .next t →
    ((writtenFlags i).zf = false → t.flags.zf = s.flags.zf) ∧
    ((writtenFlags i).cf = false → t.flags.cf = s.flags.cf) ∧
    ((writtenFlags i).of = false → t.flags.of = s.flags.of) ∧
    ((writtenFlags i).sf = false → t.flags.sf = s.flags.sf)

/-- If an instruction answers a next state, every register is as before except the one named by its destination byte,
the next one for mulq and idivq, the next two for divq, the link register of jmp %x, %y; stores, relative jumps, putc,
halt and nop change none. A number of a pair or triple modulo 256 is decision D9 (log 9). Rests on 10_state.md section
2 (R22, R23); 40_integer_arithmetic.md section 1 (R101). -/
def Obligations.RegisterFrame : Prop :=
  ∀ (i : Instr) (s t : State), exec i s = .next t → ∀ r : Reg, r ∉ destinations i → t.reg r = s.reg r

/-- Where memory is in canonical form and an instruction of any kind answers a next state, every byte outside what it
stores to reads as before: a store stores its width at its own address, a halt one byte at HALT_EXIT_CELL where that
names a cell (none by default, decision D16, log 20), a trap of the read service the delivered bytes, nbyte of them at
most, at the buffer of its block (decisions D24 and D25, logs 31 to 34), every other instruction nothing, the other
traps included. Rests on 20_memory.md section 3 (R46); 45_stores.md section 1 (R240); 46_system_io.md (R270, R271,
R282, R283). -/
def Obligations.MemoryFrame : Prop :=
  ∀ (i : Instr) (s t : State), Memory.wf s.mem → exec i s = .next t →
    ∀ k : Nat, (∀ (a : Addr) (n : Nat), storedRange s i = some (a, n) → ∀ j, j < n → k ≠ Memory.cell a j) →
      Memory.byteAt t.mem k = Memory.byteAt s.mem k

/-- If an instruction answers a next state, the parameters are as before, the output device and the data of write
services have what they had as a prefix, the input device and the prepared answers are a suffix of what they were. The
prepared answers used in order and the list of write records are the data the model holds for the environment (logs
33, 36), not the spec's. Rests on 10_state.md section 6 (R29); 70_reset_and_hazards.md section 1 (R335, R336). -/
def Obligations.EnvironmentFrame : Prop :=
  ∀ (i : Instr) (s t : State), exec i s = .next t →
    t.params = s.params ∧ s.output <+: t.output ∧ s.written <+: t.written ∧ t.input <:+ s.input ∧
      t.readAnswers <:+ s.readAnswers ∧ t.writeAnswers <:+ s.writeAnswers

/-- If an instruction that is no jump and no halt answers a next state, pc has advanced by 4 modulo 2^64, unless it
waits: a getc while the input device is empty, or a trap whose read or write service has not returned; then no state
has changed. A halt leaves pc. The advance is decision D3 (log 3), the wait of getc is D18 (log 23), that of a trap
log 34, the pc of a halt D17 (log 21). Rests on 30_encoding.md section 1 (R62); 60_exceptions.md section 4 (R310);
60_exceptions.md section 3 (R305); 46_system_io.md section 1 (R270). -/
def Obligations.PcAdvance : Prop :=
  ∀ (i : Instr) (s t : State), exec i s = .next t →
    (advances i = true → (waits s i → t = s) ∧ (¬ waits s i → advanced s t)) ∧
    ((∃ x, i = .haltReg x) ∨ (∃ x, i = .haltImm x) → t.pc = s.pc)

/-- If pc is a multiple of 4 and a step that does not fetch jmp %x, %y answers a next state, pc is a multiple of 4
again. The advance is decision D3 (log 3); where pc stays, in a wait, a halt or a halted machine, it is logs 21, 23,
24 and 34. Rests on 30_encoding.md section 1 (R61); 43_jumps.md section 1 (R160). -/
def Obligations.AlignedPcStaysAligned : Prop :=
  ∀ s t : State, step s = .next t → s.pc.toNat % 4 = 0 → (∀ x y : Reg, s.fetchInstr ≠ .ok (.jmpReg x y)) →
    t.pc.toNat % 4 = 0

/-- Every instruction that is no load, no store and none of mulq, divq, idivq and trap answers a next state: in every
state, but for a halt, where there must be no exit cell (decision D16, log 20), and jmp %x, %y, which must have two
different registers or register 0 or JMP_SAME_REG = read_first (decision D19, log 25). A getc without input does not
complete: the next state is the state itself (decision D18, log 23). That putc always succeeds is log 44. Rests on
60_exceptions.md section 1 (R301). -/
def Obligations.NamedInstructionsAreTotal : Prop :=
  ∀ (i : Instr) (s : State), dataAccess s i = none →
    i.opcode ∉ [0x02#8, 0x32#8, 0x33#8, 0x35#8, 0x3A#8, 0x3B#8, 0x3D#8] →
    ((∃ x, i = .haltReg x) ∨ (∃ x, i = .haltImm x) → s.params.haltExitCell = none) →
    (∀ x y, i = .jmpReg x y → x ≠ y ∨ x = 0#8 ∨ s.params.jmpSameReg = .readFirst) →
    ∃ t, exec i s = .next t ∧ (waits s i → t = s)

/-- Register 0 reads 0; a write to it changes no state; a write to any other register is read back from it, leaves
every other register and everything that is no register. Rests on 00_scope.md section 5 (R12); 10_state.md section 2
(R21, R22). -/
def Obligations.RegisterFile : Prop :=
  ∀ (s : State) (z : Reg) (v : Quad),
    s.reg 0#8 = 0#64 ∧ s.setReg 0#8 v = s ∧ registerResult s (s.setReg z v) [(z, v)] s.flags ∧ (s.setReg z v).pc = s.pc

/-- An access in order reads the k bytes from address a on as one pattern with the byte at a the most significant: the
sum of rule R41. The narrower accesses inside a quad are its bits 63:56, 63:48, 63:32 and 31:0. The rule: R41. -/
def Obligations.BigEndianDatum : Prop :=
  (∀ (s : State) (a : Addr) (k : Nat), accessible s a k → s.memRead a k = .ok (datum s.mem a k)) ∧
  ∀ (m : Memory) (a : Addr),
    datum m a 1 = datum m a 8 / 2 ^ 56 ∧ datum m a 2 = datum m a 8 / 2 ^ 48 ∧ datum m a 4 = datum m a 8 / 2 ^ 32 ∧
      datum m (a + 4#64) 4 = datum m a 8 % 2 ^ 32

/-- On canonical memory the store primitive of 1, 2, 4 or 8 bytes completes where the access is in order; reading back
gives the value modulo 256^n, the bytes lie most significant first, every other byte reads as before and memory is
canonical again. That a read sees the last write is decision D29 (log 39). Rests on 20_memory.md section 3 (R45);
20_memory.md section 6 (R53). -/
def Obligations.ReadAfterWrite : Prop :=
  ∀ (s : State) (a : Addr) (n : Nat) (v : Quad), n ∈ [1, 2, 4, 8] → Memory.wf s.mem → accessible s a n →
    ∃ t, s.memWrite a n v = .ok t ∧ t.memRead a n = .ok (v.toNat % 256 ^ n) ∧ storedAt s t a n v ∧ Memory.wf t.mem

/-- After a quad is stored at an aligned address, a read of n bytes at k bytes into it, k a multiple of n, gives the
bytes k to k + n - 1 counted from the most significant. That a read sees the last write is decision D29 (log 39).
Rests on 20_memory.md section 6 (R56). -/
def Obligations.MixedWidths : Prop :=
  ∀ (s : State) (a : Addr) (n k : Nat) (v : Quad), n ∈ [1, 2, 4, 8] → k % n = 0 → k + n ≤ 8 → Memory.wf s.mem →
    accessible s a 8 →
    ∃ t, s.memWrite a 8 v = .ok t ∧
      t.memRead (a + BitVec.ofNat 64 k) n = .ok (v.toNat / 256 ^ (8 - k - n) % 256 ^ n)

/-- The indexed form is the sum of two registers and the displacement form the sum of a register and a signed byte,
-128 to 127, both modulo 2^64; the scaled forms multiply the offset alone. The rule: R47, R49. -/
def Obligations.AddressForms : Prop :=
  ∀ (s : State) (base offset : Reg) (disp : Byte),
    (s.addrIndexed base offset).toNat = ((s.reg base).toNat + (s.reg offset).toNat) % 2 ^ 64 ∧
    ((s.addrDisp disp base).toNat : Int) = ((s.reg base).toNat + disp.toInt) % 2 ^ 64 ∧
    -128 ≤ disp.toInt ∧ disp.toInt ≤ 127 ∧
    ∀ scale ∈ [2, 4, 8],
      (s.addrScaled base scale offset).toNat = ((s.reg base).toNat + scale * (s.reg offset).toNat) % 2 ^ 64

/-- The bytes Op = 0x30, X, Y, Z decode to addq %x, %y, %z, whose word is 0x30 : X : Y : Z and which completes in
every state: register z receives the sum modulo 2^64, CF is the unsigned carry, OF the signed overflow, SF bit 63, ZF
result zero, also with z = 0 where the sum is discarded; no other register, no memory, nothing outside changes. The
rule: R102. -/
def Obligations.AddqRegister : Prop :=
  ∀ (x y z : Reg) (s : State),
    decodeFields 0x30#8 x y z = .ok (.addqReg x y z) ∧ encodeWord (.addqReg x y z) = 0x30#8 ++ x ++ y ++ z ∧
    ∃ t, exec (.addqReg x y z) s = .next t ∧
      registerResult s t [(z, pat64 ((s.reg x).toNat + (s.reg y).toNat))] {
        zf := decide ((pat64 ((s.reg x).toNat + (s.reg y).toNat)).toNat = 0)
        cf := decide ((s.reg x).toNat + (s.reg y).toNat ≥ 2 ^ 64)
        of := decide ((s.reg x).toInt + (s.reg y).toInt ≥ 2 ^ 63 ∨ (s.reg x).toInt + (s.reg y).toInt < -2 ^ 63)
        sf := decide ((pat64 ((s.reg x).toNat + (s.reg y).toNat)).toNat ≥ 2 ^ 63) }

/-- The bytes Op = 0x31, X, Y, Z decode to subq %x, %y, %z, whose word is 0x31 : X : Y : Z and which completes in
every state: register z receives %y - %x modulo 2^64, CF is the unsigned borrow, OF the signed overflow, SF bit 63, ZF
result zero, also with z = 0, the compare; nothing else changes. The rule: R104. -/
def Obligations.SubqRegister : Prop :=
  ∀ (x y z : Reg) (s : State),
    decodeFields 0x31#8 x y z = .ok (.subqReg x y z) ∧ encodeWord (.subqReg x y z) = 0x31#8 ++ x ++ y ++ z ∧
    ∃ t, exec (.subqReg x y z) s = .next t ∧
      registerResult s t [(z, pat64 (((s.reg y).toNat : Int) - (s.reg x).toNat))] {
        zf := decide ((pat64 (((s.reg y).toNat : Int) - (s.reg x).toNat)).toNat = 0)
        cf := decide ((s.reg y).toNat < (s.reg x).toNat)
        of := decide ((s.reg y).toInt - (s.reg x).toInt < -2 ^ 63 ∨ (s.reg y).toInt - (s.reg x).toInt ≥ 2 ^ 63)
        sf := decide ((pat64 (((s.reg y).toNat : Int) - (s.reg x).toNat)).toNat ≥ 2 ^ 63) }

/-- Both immediate forms complete in every state, with sum and difference as bit vectors, the carry and borrow as
unsigned comparisons, OF by the signs of operands and result, pc advanced. The reading of the immediate in OF is
decision D23 (log 29). Flags of the computed value, also with z = 0, are D7 (log 7), the advance is D3 (log 3). Rests
on 40_integer_arithmetic.md sections 1 to 3 (R100, R103, R105). -/
def Obligations.AddqSubqImmediate : Prop :=
  ∀ (imm : Byte) (y z : Reg) (s : State),
    (∃ t, exec (.addqImm imm y z) s = .next t ∧ advanced s t ∧
      registerResult s t [(z, imm.setWidth 64 + s.reg y)] {
        zf := imm.setWidth 64 + s.reg y == 0#64
        cf := (imm.setWidth 64 + s.reg y).ult (s.reg y)
        of := !(s.reg y).msb && (imm.setWidth 64 + s.reg y).msb
        sf := (imm.setWidth 64 + s.reg y).msb }) ∧
    ∃ t, exec (.subqImm imm y z) s = .next t ∧ advanced s t ∧
      registerResult s t [(z, s.reg y - imm.setWidth 64)] {
        zf := s.reg y == imm.setWidth 64
        cf := (s.reg y).ult (imm.setWidth 64)
        of := (s.reg y).msb && !(s.reg y - imm.setWidth 64).msb
        sf := (s.reg y - imm.setWidth 64).msb }

/-- Where register z + 1 is in range, or taken modulo 256 under REGNUM_OVERFLOW = wrap256, both forms complete: z
receives the low and z + 1 the high quadword of the 128-bit product, CF and OF are 1 exactly where the low quadword is
0 (as the source prints it, decision D20, log 26), ZF and SF stay, pc advances. Numbers above 255 are decision D9 (log
9), reading before writing is D8 (log 8), kept flags are D6 (log 6), the advance is D3 (log 3). Rests on
40_integer_arithmetic.md sections 1 and 4 (R101, R106, R107). -/
def Obligations.MulqProduct : Prop :=
  ∀ (y z : Reg) (s : State), (z.toNat + 1 ≤ 255 ∨ s.params.regnumOverflow = .wrap256) →
    (∀ x : Reg, ∃ t, exec (.mulqReg x y z) s = .next t ∧ advanced s t ∧
      registerResult s t
        [(z, ((s.reg x).setWidth 128 * (s.reg y).setWidth 128).extractLsb' 0 64),
          (z + 1#8, ((s.reg x).setWidth 128 * (s.reg y).setWidth 128).extractLsb' 64 64)]
        { s.flags with cf := s.reg x * s.reg y == 0#64, of := s.reg x * s.reg y == 0#64 }) ∧
    ∀ imm : Byte, ∃ t, exec (.mulqImm imm y z) s = .next t ∧ advanced s t ∧
      registerResult s t
        [(z, (imm.setWidth 128 * (s.reg y).setWidth 128).extractLsb' 0 64),
          (z + 1#8, (imm.setWidth 128 * (s.reg y).setWidth 128).extractLsb' 64 64)]
        { s.flags with cf := imm.setWidth 64 * s.reg y == 0#64, of := imm.setWidth 64 * s.reg y == 0#64 }

/-- Where the register numbers are in range or wrap and the divisor d is not 0, both forms complete: with n the
128-bit dividend in y + 1 and y there are q and r with n = q * d + r and r < d, q goes to z (low) and z + 1 (high), r
to z + 2; flags stay, pc advances. Numbers above 255 are decision D9 (log 9), reading before writing is D8 (log 8),
kept flags are D6 (log 6), the advance is D3 (log 3). Rests on 40_integer_arithmetic.md sections 1, 5 and 8 (R101,
R108, R109, R114). -/
def Obligations.DivqQuotientRemainder : Prop :=
  ∀ (y z : Reg) (s : State),
    ((y.toNat + 1 ≤ 255 ∧ z.toNat + 2 ≤ 255) ∨ s.params.regnumOverflow = .wrap256) →
    (∀ x : Reg, s.reg x ≠ 0#64 → ∃ (t : State) (q r : Nat), exec (.divqReg x y z) s = .next t ∧ advanced s t ∧
      (s.reg (y + 1#8)).toNat * 2 ^ 64 + (s.reg y).toNat = q * (s.reg x).toNat + r ∧ r < (s.reg x).toNat ∧
      registerResult s t
        [(z, BitVec.ofNat 64 q), (z + 1#8, BitVec.ofNat 64 (q / 2 ^ 64)), (z + 2#8, BitVec.ofNat 64 r)] s.flags) ∧
    ∀ imm : Byte, imm ≠ 0#8 → ∃ (t : State) (q r : Nat), exec (.divqImm imm y z) s = .next t ∧ advanced s t ∧
      (s.reg (y + 1#8)).toNat * 2 ^ 64 + (s.reg y).toNat = q * imm.toNat + r ∧ r < imm.toNat ∧
      registerResult s t
        [(z, BitVec.ofNat 64 q), (z + 1#8, BitVec.ofNat 64 (q / 2 ^ 64)), (z + 2#8, BitVec.ofNat 64 r)] s.flags

/-- Both forms complete in every state: register z receives the product modulo 2^64, CF says that the unsigned product
needs more than 64 bits, OF that the signed product is outside the signed range, ZF and SF stay, pc advances. The
immediate is sign-extended (decision D22, log 28). Flags of the computed value, also with z = 0, are D7 (log 7), kept
flags are D6 (log 6), the advance is D3 (log 3). Rests on 40_integer_arithmetic.md section 6 (R110, R111). -/
def Obligations.ImulqProduct : Prop :=
  ∀ (y z : Reg) (s : State),
    (∀ x : Reg, ∃ t, exec (.imulqReg x y z) s = .next t ∧ advanced s t ∧
      registerResult s t [(z, s.reg x * s.reg y)] { s.flags with
        cf := decide (2 ^ 64 ≤ (s.reg x).toNat * (s.reg y).toNat)
        of := decide ((s.reg x).toInt * (s.reg y).toInt < -2 ^ 63 ∨ 2 ^ 63 ≤ (s.reg x).toInt * (s.reg y).toInt) }) ∧
    ∀ imm : Byte, ∃ t, exec (.imulqImm imm y z) s = .next t ∧ advanced s t ∧
      registerResult s t [(z, imm.signExtend 64 * s.reg y)] { s.flags with
        cf := decide (2 ^ 64 ≤ (imm.signExtend 64).toNat * (s.reg y).toNat)
        of := decide (imm.toInt * (s.reg y).toInt < -2 ^ 63 ∨ 2 ^ 63 ≤ imm.toInt * (s.reg y).toInt) }

/-- Where register z + 1 is in range or wraps, the divisor d is not 0, and the division is not -2^63 by -1 or
IDIV_OVERFLOW is wrap, both forms complete: there are q and r with n = q * d + r, |r| < |d| and r = 0 or of the sign
of n; z receives q and z + 1 receives r as patterns, flags stay, pc advances. Numbers above 255 are decision D9 (log
9), reading before writing is D8 (log 8), the wrap is D11 (log 11), kept flags are D6 (log 6), the advance is D3 (log
3). Rests on 40_integer_arithmetic.md sections 1, 7 and 8 (R101, R112 to R114). -/
def Obligations.IdivqTruncates : Prop :=
  ∀ (y z : Reg) (s : State), (z.toNat + 1 ≤ 255 ∨ s.params.regnumOverflow = .wrap256) →
    (∀ x : Reg, (s.reg x).toInt ≠ 0 →
      (¬ ((s.reg y).toInt = -2 ^ 63 ∧ (s.reg x).toInt = -1) ∨ s.params.idivOverflow = .wrap) →
      ∃ (t : State) (q r : Int), exec (.idivqReg x y z) s = .next t ∧ advanced s t ∧
        (s.reg y).toInt = q * (s.reg x).toInt + r ∧ r.natAbs < (s.reg x).toInt.natAbs ∧
        (r = 0 ∨ r.sign = (s.reg y).toInt.sign) ∧
        registerResult s t [(z, pat64 q), (z + 1#8, pat64 r)] s.flags) ∧
    ∀ imm : Byte, imm ≠ 0#8 →
      (¬ ((s.reg y).toInt = -2 ^ 63 ∧ imm.toInt = -1) ∨ s.params.idivOverflow = .wrap) →
      ∃ (t : State) (q r : Int), exec (.idivqImm imm y z) s = .next t ∧ advanced s t ∧
        (s.reg y).toInt = q * imm.toInt + r ∧ r.natAbs < imm.toInt.natAbs ∧
        (r = 0 ∨ r.sign = (s.reg y).toInt.sign) ∧
        registerResult s t [(z, pat64 q), (z + 1#8, pat64 r)] s.flags

/-- Under REGNUM_OVERFLOW = fault the six pair instructions fault with RegisterIndexOverflow on a register number
above 255, whatever the operands; otherwise a divisor 0 faults with DivideByZero, and -2^63 by -1 faults with
DivideOverflow under IDIV_OVERFLOW = fault. Each records pc and the word. The outcomes are decisions D9 to D11 (logs 9
to 11). The word a fault records is the canonical encoding (log 50). Rests on 60_exceptions.md section 1 (R301, R302);
40_integer_arithmetic.md sections 1, 4, 5 and 7 (R101, R106 to R109, R112, R113). -/
def Obligations.ArithmeticFaults : Prop :=
  ∀ (x y z : Reg) (s : State),
    (s.params.regnumOverflow = .fault → z = 255#8 →
      exec (.mulqReg x y z) s = .fault (.registerIndexOverflow s.pc (0x32#8 ++ x ++ y ++ z)) ∧
      exec (.mulqImm x y z) s = .fault (.registerIndexOverflow s.pc (0x3A#8 ++ x ++ y ++ z)) ∧
      exec (.idivqReg x y z) s = .fault (.registerIndexOverflow s.pc (0x35#8 ++ x ++ y ++ z)) ∧
      exec (.idivqImm x y z) s = .fault (.registerIndexOverflow s.pc (0x3D#8 ++ x ++ y ++ z))) ∧
    (s.params.regnumOverflow = .fault → (y = 255#8 ∨ 254#8 ≤ z) →
      exec (.divqReg x y z) s = .fault (.registerIndexOverflow s.pc (0x33#8 ++ x ++ y ++ z)) ∧
      exec (.divqImm x y z) s = .fault (.registerIndexOverflow s.pc (0x3B#8 ++ x ++ y ++ z))) ∧
    (s.params.regnumOverflow = .wrap256 ∨ (y ≠ 255#8 ∧ z < 254#8) →
      (s.reg x = 0#64 → exec (.divqReg x y z) s = .fault (.divideByZero s.pc (0x33#8 ++ x ++ y ++ z))) ∧
      (x = 0#8 → exec (.divqImm x y z) s = .fault (.divideByZero s.pc (0x3B#8 ++ x ++ y ++ z)))) ∧
    (s.params.regnumOverflow = .wrap256 ∨ z ≠ 255#8 →
      (s.reg x = 0#64 → exec (.idivqReg x y z) s = .fault (.divideByZero s.pc (0x35#8 ++ x ++ y ++ z))) ∧
      (x = 0#8 → exec (.idivqImm x y z) s = .fault (.divideByZero s.pc (0x3D#8 ++ x ++ y ++ z))) ∧
      (s.params.idivOverflow = .fault → s.reg y = BitVec.intMin 64 →
        (s.reg x = -1#64 → exec (.idivqReg x y z) s = .fault (.divideOverflow s.pc (0x35#8 ++ x ++ y ++ z))) ∧
        (x = 255#8 → exec (.idivqImm x y z) s = .fault (.divideOverflow s.pc (0x3D#8 ++ x ++ y ++ z)))))

/-- The three instructions complete in every state: the destination receives the bitwise AND, OR or complement, ZF
says whether the computed value is 0, also where the destination is register 0 (decision D7, log 7); CF, OF, SF stay,
pc advances. For notq the destination is the second operand byte. Kept flags are decision D6 (log 6), the advance is
D3 (log 3). Rests on 41_bitwise_shift.md section 1 (R130 to R132). -/
def Obligations.AndOrNot : Prop :=
  ∀ (x y z : Reg) (s : State),
    (∃ t, exec (.andq x y z) s = .next t ∧ advanced s t ∧
      registerResult s t [(z, s.reg x &&& s.reg y)] { s.flags with zf := s.reg x &&& s.reg y == 0#64 }) ∧
    (∃ t, exec (.orq x y z) s = .next t ∧ advanced s t ∧
      registerResult s t [(z, s.reg x ||| s.reg y)] { s.flags with zf := s.reg x == 0#64 && s.reg y == 0#64 }) ∧
    ∃ t, exec (.notq x y) s = .next t ∧ advanced s t ∧
      registerResult s t [(y, ~~~(s.reg x))] { s.flags with zf := s.reg x == BitVec.allOnes 64 }

/-- Both forms complete in every state with the count c the whole 64-bit register or the byte: the result is the value
shifted left by c, zeros from 64 on; CF is bit 64 - c of the value for counts 1 to 63 and 0 for count 0 and counts
from 64 on; ZF, OF, SF stay, pc advances. CF of the immediate form and of counts from 64 on is decision D31 (log 30),
kept flags are D6 (log 6), the advance is D3 (log 3). Rests on 41_bitwise_shift.md section 2 (R133, R134, R139). -/
def Obligations.ShiftLeft : Prop :=
  ∀ (y z : Reg) (s : State),
    (∀ x : Reg, ∃ t, exec (.shlqReg x y z) s = .next t ∧ advanced s t ∧
      registerResult s t [(z, s.reg y <<< (s.reg x).toNat)] { s.flags with
        cf := decide (1 ≤ (s.reg x).toNat ∧ (s.reg x).toNat ≤ 63) && (s.reg y).getLsbD (64 - (s.reg x).toNat) }) ∧
    ∀ imm : Byte, ∃ t, exec (.shlqImm imm y z) s = .next t ∧ advanced s t ∧
      registerResult s t [(z, s.reg y <<< imm.toNat)] { s.flags with
        cf := decide (1 ≤ imm.toNat ∧ imm.toNat ≤ 63) && (s.reg y).getLsbD (64 - imm.toNat) }

/-- The four right shifts complete in every state: shrq gives the logical, sarq the arithmetic right shift by the
whole count, counts of 64 and more included; all four flags stay, pc advances. Kept flags are decision D6 (log 6), the
advance is D3 (log 3). Rests on 41_bitwise_shift.md section 2 (R135 to R139). -/
def Obligations.ShiftsRight : Prop :=
  ∀ (y z : Reg) (s : State),
    (∀ x : Reg,
      (∃ t, exec (.shrqReg x y z) s = .next t ∧ advanced s t ∧
        registerResult s t [(z, s.reg y >>> (s.reg x).toNat)] s.flags) ∧
      ∃ t, exec (.sarqReg x y z) s = .next t ∧ advanced s t ∧
        registerResult s t [(z, (s.reg y).sshiftRight (s.reg x).toNat)] s.flags) ∧
    ∀ imm : Byte,
      (∃ t, exec (.shrqImm imm y z) s = .next t ∧ advanced s t ∧
        registerResult s t [(z, s.reg y >>> imm.toNat)] s.flags) ∧
      ∃ t, exec (.sarqImm imm y z) s = .next t ∧ advanced s t ∧
        registerResult s t [(z, (s.reg y).sshiftRight imm.toNat)] s.flags

/-- Both complete in every state: register z receives the extended immediate, ZF says whether the immediate is 0, also
with z = 0 (decision D7, log 7); CF, OF, SF stay, pc advances. Kept flags are decision D6 (log 6), the advance is D3
(log 3). Rests on 42_load_immediate.md (R150, R151). -/
def Obligations.LoadImmediate : Prop :=
  ∀ (imm : BitVec 16) (z : Reg) (s : State),
    (∃ t, exec (.ldzwq imm z) s = .next t ∧ advanced s t ∧
      registerResult s t [(z, imm.setWidth 64)] { s.flags with zf := imm == 0#16 }) ∧
    ∃ t, exec (.ldsq imm z) s = .next t ∧ advanced s t ∧
      registerResult s t [(z, imm.signExtend 64)] { s.flags with zf := imm == 0#16 }

/-- It completes in every state: register z receives its old bits 47:0 followed by the immediate, ZF says whether that
is 0, CF is bit 48 of the old value (decision D21, log 27), OF and SF stay, pc advances. ZF of the computed value,
also with z = 0, is decision D7 (log 7), kept flags are D6 (log 6), the advance is D3 (log 3). Rests on
42_load_immediate.md (R152). -/
def Obligations.ShiftInWord : Prop :=
  ∀ (imm : BitVec 16) (z : Reg) (s : State),
    ∃ t, exec (.shldwq imm z) s = .next t ∧ advanced s t ∧
      registerResult s t [(z, (s.reg z).extractLsb' 0 48 ++ imm)] { s.flags with
        zf := ((s.reg z).extractLsb' 0 48 ++ imm : Quad) == 0#64
        cf := (s.reg z).getLsbD 48 }

/-- The sequence ldzwq w3; shldwq w2; shldwq w1; shldwq w0 on a register z other than 0 completes in every state and
leaves w3 : w2 : w1 : w0 in z, ZF = the whole constant is 0, CF = 0, OF and SF and all else as before, pc four
instructions on. CF is bit 48 of the value before the last shift, 0 : w3 : w2 : w1 (R152); R153 calls the same bit
"bit 0 of w3", which is bit 32 of that value, and the model follows R152 (log 51). The bit that goes to CF is decision
D21 (log 27), kept flags are D6 (log 6), the advance is D3 (log 3). Rests on 42_load_immediate.md (R150, R152, R153).
-/
def Obligations.ConstantInFourInstructions : Prop :=
  ∀ (w3 w2 w1 w0 : BitVec 16) (z : Reg) (s : State), z ≠ 0#8 →
    ∃ t, execAll [.ldzwq w3 z, .shldwq w2 z, .shldwq w1 z, .shldwq w0 z] s = .next t ∧
      registerResult s t [(z, w3 ++ w2 ++ w1 ++ w0)] { s.flags with
        zf := (w3 ++ w2 ++ w1 ++ w0 : Quad) == 0#64
        cf := false } ∧
      t.pc = s.pc + 16#64

/-- Where x and y differ, or x is 0, or JMP_SAME_REG is read_first, it completes: pc is the content register x had
before, register y receives pc + 4 modulo 2^64, no flag, no memory, nothing else changes. With x = y other than 0
under JMP_SAME_REG = refuse it is refused. The reading is decision D19 (log 25). The wrap of the link is decision D30
(log 3), kept flags are D6 (log 6), the word a refusal records is log 50. Rests on 43_jumps.md section 2 (R161). -/
def Obligations.JumpToRegister : Prop :=
  ∀ (x y : Reg) (s : State),
    (x ≠ y ∨ x = 0#8 ∨ s.params.jmpSameReg = .readFirst →
      ∃ t, exec (.jmpReg x y) s = .next t ∧ t.pc = s.reg x ∧ registerResult s t [(y, s.pc + 4#64)] s.flags) ∧
    (x = y → x ≠ 0#8 → s.params.jmpSameReg = .refuse →
      exec (.jmpReg x y) s = .refused (.jmpSameRegister s.pc (0x40#8 ++ x ++ y ++ 0#8)))

/-- The bytes Op = 0x41, X, Y, Z decode to the relative jump, whose word is 0x41 : X : Y : Z and which completes in
every state: pc becomes pc + 4 * s(XYZ) modulo 2^64, computed from the address of the jump itself; no register, no
flag, no memory, nothing else changes. That no flag changes is decision D6 (log 6). Rests on 43_jumps.md sections 1
and 2 (R160, R162). -/
def Obligations.RelativeJump : Prop :=
  ∀ (x y z : Byte) (s : State), ∃ rel : BitVec 26,
    decodeFields 0x41#8 x y z = .ok (.jmpRel rel) ∧ encodeWord (.jmpRel rel) = 0x41#8 ++ x ++ y ++ z ∧
    rel.toInt = 4 * (x ++ y ++ z).toInt ∧
    ∃ t, exec (.jmpRel rel) s = .next t ∧
      (t.pc.toNat : Int) = ((s.pc.toNat : Int) + 4 * (x ++ y ++ z).toInt) % 2 ^ 64 ∧ registerResult s t [] s.flags

/-- Each completes in every state: where its condition on ZF, CF, OF, SF holds pc becomes the relative target, else it
advances; no register, no flag, no memory, nothing else changes. That no flag changes is decision D6 (log 6), the
advance of a jump not taken is D3 (log 3). Rests on 43_jumps.md sections 1 and 3 (R160, R163 to R172). -/
def Obligations.ConditionalJumps : Prop :=
  ∀ (rel : BitVec 26) (s : State), ∀ jump ∈ ([
      (.je rel, s.flags.zf = true), (.jne rel, s.flags.zf = false),
      (.jl rel, s.flags.sf ≠ s.flags.of), (.jge rel, s.flags.sf = s.flags.of),
      (.jle rel, s.flags.zf = true ∨ s.flags.sf ≠ s.flags.of), (.jg rel, s.flags.zf = false ∧ s.flags.sf = s.flags.of),
      (.jb rel, s.flags.cf = true), (.jae rel, s.flags.cf = false),
      (.jna rel, s.flags.cf = true ∨ s.flags.zf = true), (.ja rel, s.flags.cf = false ∧ s.flags.zf = false)] :
      List (Instr × Prop)),
    ∃ t, exec jump.1 s = .next t ∧ (jump.2 → t.pc = s.pc + rel.signExtend 64) ∧ (¬ jump.2 → t.pc = s.pc + 4#64) ∧
      registerResult s t [] s.flags

/-- After subq %x, %y, %z, with a the old content of %y and b that of %x, each conditional jump that follows is taken
exactly where a and b, read as signed or unsigned numbers, compare as its name says; for the immediate form with b = 0
to 255. The immediate in OF is decision D23 (log 29), flags of a compare into register 0 are D7 (log 7), flags kept by
the jump are D6 (log 6), the advance is D3 (log 3). Rests on 43_jumps.md section 4 (R173). -/
def Obligations.CompareThenJump : Prop :=
  ∀ (cmp : Instr) (a b : Quad) (rel : BitVec 26) (s : State),
    ((∃ x y z, cmp = .subqReg x y z ∧ a = s.reg y ∧ b = s.reg x) ∨
      ∃ imm y z, cmp = .subqImm imm y z ∧ a = s.reg y ∧ b = imm.setWidth 64) →
    ∀ jump ∈ ([
      (.je rel, a = b), (.jne rel, a ≠ b), (.jl rel, a.toInt < b.toInt), (.jge rel, b.toInt ≤ a.toInt),
      (.jle rel, a.toInt ≤ b.toInt), (.jg rel, b.toInt < a.toInt), (.jb rel, a.toNat < b.toNat),
      (.jae rel, b.toNat ≤ a.toNat), (.jna rel, a.toNat ≤ b.toNat), (.ja rel, b.toNat < a.toNat)] :
      List (Instr × Prop)),
    ∃ t, execAll [cmp, jump.1] s = .next t ∧ (jump.2 → t.pc = s.pc + 4#64 + rel.signExtend 64) ∧
      (¬ jump.2 → t.pc = s.pc + 8#64)

/-- For a link register y other than 0 and other than x, a call by jmp %x, %y, any subroutine body whose end state
still has the link register, and the return by jmp %y, %0 come back to the instruction after the call; the call writes
the link register alone and the return writes no register. The wrap of the link is decision D30 (log 3), kept flags
are D6 (log 6). Rests on 43_jumps.md section 4 (R174); 43_jumps.md section 2 (R161). -/
def Obligations.CallAndReturn : Prop :=
  ∀ (x y : Reg) (s : State), y ≠ 0#8 → x ≠ y →
    ∃ t, exec (.jmpReg x y) s = .next t ∧ t.pc = s.reg x ∧ registerResult s t [(y, s.pc + 4#64)] s.flags ∧
      ∀ u : State, u.reg y = t.reg y →
        ∃ v, exec (.jmpReg y 0#8) u = .next v ∧ v.pc = s.pc + 4#64 ∧ registerResult u v [] u.flags

/-- Wherever the address is a multiple of 8 and its 8 bytes exist, each of the five movq loads completes: register z
receives the quad at the form's address, no address register (unless it is z), no flag, no memory, nothing outside
changes, pc advances. Reading before writing is decision D8 (log 8), kept flags are D6 (log 6), the advance is D3 (log
3). Rests on 44_loads.md (R190 to R195); 20_memory.md sections 2 and 4. -/
def Obligations.LoadQuad : Prop :=
  ∀ (x y z : Reg) (d : Byte),
    loadCompletes (.movqLoadIndexed x y z) (fun s => s.addrIndexed x y) 8 (BitVec.ofNat 64) z ∧
    loadCompletes (.movqLoadDisp d y z) (fun s => s.addrDisp d y) 8 (BitVec.ofNat 64) z ∧
    loadCompletes (.movqLoadScaled2 x y z) (fun s => s.addrScaled x 2 y) 8 (BitVec.ofNat 64) z ∧
    loadCompletes (.movqLoadScaled4 x y z) (fun s => s.addrScaled x 4 y) 8 (BitVec.ofNat 64) z ∧
    loadCompletes (.movqLoadScaled8 x y z) (fun s => s.addrScaled x 8 y) 8 (BitVec.ofNat 64) z

/-- Wherever the address is aligned to the width and its bytes exist, each of the fifteen zero-extending loads
completes: register z receives the value of the 4, 2 or 1 bytes, no flag, no memory, nothing else changes, pc
advances. Reading before writing is decision D8 (log 8), kept flags are D6 (log 6), the advance is D3 (log 3). Rests
on 44_loads.md (R190, R196 to R210); 20_memory.md sections 2 and 4. -/
def Obligations.LoadZeroExtended : Prop :=
  ∀ (x y z : Reg) (d : Byte),
    loadCompletes (.movzlqIndexed x y z) (fun s => s.addrIndexed x y) 4 (BitVec.ofNat 64) z ∧
    loadCompletes (.movzlqDisp d y z) (fun s => s.addrDisp d y) 4 (BitVec.ofNat 64) z ∧
    loadCompletes (.movzlqScaled2 x y z) (fun s => s.addrScaled x 2 y) 4 (BitVec.ofNat 64) z ∧
    loadCompletes (.movzlqScaled4 x y z) (fun s => s.addrScaled x 4 y) 4 (BitVec.ofNat 64) z ∧
    loadCompletes (.movzlqScaled8 x y z) (fun s => s.addrScaled x 8 y) 4 (BitVec.ofNat 64) z ∧
    loadCompletes (.movzwqIndexed x y z) (fun s => s.addrIndexed x y) 2 (BitVec.ofNat 64) z ∧
    loadCompletes (.movzwqDisp d y z) (fun s => s.addrDisp d y) 2 (BitVec.ofNat 64) z ∧
    loadCompletes (.movzwqScaled2 x y z) (fun s => s.addrScaled x 2 y) 2 (BitVec.ofNat 64) z ∧
    loadCompletes (.movzwqScaled4 x y z) (fun s => s.addrScaled x 4 y) 2 (BitVec.ofNat 64) z ∧
    loadCompletes (.movzwqScaled8 x y z) (fun s => s.addrScaled x 8 y) 2 (BitVec.ofNat 64) z ∧
    loadCompletes (.movzbqIndexed x y z) (fun s => s.addrIndexed x y) 1 (BitVec.ofNat 64) z ∧
    loadCompletes (.movzbqDisp d y z) (fun s => s.addrDisp d y) 1 (BitVec.ofNat 64) z ∧
    loadCompletes (.movzbqScaled2 x y z) (fun s => s.addrScaled x 2 y) 1 (BitVec.ofNat 64) z ∧
    loadCompletes (.movzbqScaled4 x y z) (fun s => s.addrScaled x 4 y) 1 (BitVec.ofNat 64) z ∧
    loadCompletes (.movzbqScaled8 x y z) (fun s => s.addrScaled x 8 y) 1 (BitVec.ofNat 64) z

/-- Wherever the address is aligned to the width and its bytes exist, each of the fifteen sign-extending loads
completes: register z receives the 32, 16 or 8 bit pattern sign-extended to 64 bits, no flag, no memory, nothing else
changes, pc advances. Reading before writing is decision D8 (log 8), kept flags are D6 (log 6), the advance is D3 (log
3). Rests on 44_loads.md (R190, R211 to R225); 20_memory.md sections 2 and 4. -/
def Obligations.LoadSignExtended : Prop :=
  ∀ (x y z : Reg) (d : Byte),
    loadCompletes (.movslqIndexed x y z) (fun s => s.addrIndexed x y) 4 (signExtended 32) z ∧
    loadCompletes (.movslqDisp d y z) (fun s => s.addrDisp d y) 4 (signExtended 32) z ∧
    loadCompletes (.movslqScaled2 x y z) (fun s => s.addrScaled x 2 y) 4 (signExtended 32) z ∧
    loadCompletes (.movslqScaled4 x y z) (fun s => s.addrScaled x 4 y) 4 (signExtended 32) z ∧
    loadCompletes (.movslqScaled8 x y z) (fun s => s.addrScaled x 8 y) 4 (signExtended 32) z ∧
    loadCompletes (.movswqIndexed x y z) (fun s => s.addrIndexed x y) 2 (signExtended 16) z ∧
    loadCompletes (.movswqDisp d y z) (fun s => s.addrDisp d y) 2 (signExtended 16) z ∧
    loadCompletes (.movswqScaled2 x y z) (fun s => s.addrScaled x 2 y) 2 (signExtended 16) z ∧
    loadCompletes (.movswqScaled4 x y z) (fun s => s.addrScaled x 4 y) 2 (signExtended 16) z ∧
    loadCompletes (.movswqScaled8 x y z) (fun s => s.addrScaled x 8 y) 2 (signExtended 16) z ∧
    loadCompletes (.movsbqIndexed x y z) (fun s => s.addrIndexed x y) 1 (signExtended 8) z ∧
    loadCompletes (.movsbqDisp d y z) (fun s => s.addrDisp d y) 1 (signExtended 8) z ∧
    loadCompletes (.movsbqScaled2 x y z) (fun s => s.addrScaled x 2 y) 1 (signExtended 8) z ∧
    loadCompletes (.movsbqScaled4 x y z) (fun s => s.addrScaled x 4 y) 1 (signExtended 8) z ∧
    loadCompletes (.movsbqScaled8 x y z) (fun s => s.addrScaled x 8 y) 1 (signExtended 8) z

/-- On canonical memory, wherever the address is aligned to the width and its bytes exist, each of the ten stores
completes: the bytes at the form's address become the low bytes of register x, most significant first, every other
byte, every register and flag and all outside stay, pc advances. Kept flags are decision D6 (log 6), the advance is D3
(log 3). Rests on 45_stores.md (R240 to R250); 20_memory.md sections 2 and 4. -/
def Obligations.StoreQuadAndLong : Prop :=
  ∀ (x y z : Reg) (d : Byte),
    storeCompletes (.movqStoreIndexed x y z) (fun s => s.addrIndexed y z) 8 x ∧
    storeCompletes (.movqStoreDisp x d z) (fun s => s.addrDisp d z) 8 x ∧
    storeCompletes (.movqStoreScaled2 x y z) (fun s => s.addrScaled y 2 z) 8 x ∧
    storeCompletes (.movqStoreScaled4 x y z) (fun s => s.addrScaled y 4 z) 8 x ∧
    storeCompletes (.movqStoreScaled8 x y z) (fun s => s.addrScaled y 8 z) 8 x ∧
    storeCompletes (.movlIndexed x y z) (fun s => s.addrIndexed y z) 4 x ∧
    storeCompletes (.movlDisp x d z) (fun s => s.addrDisp d z) 4 x ∧
    storeCompletes (.movlScaled2 x y z) (fun s => s.addrScaled y 2 z) 4 x ∧
    storeCompletes (.movlScaled4 x y z) (fun s => s.addrScaled y 4 z) 4 x ∧
    storeCompletes (.movlScaled8 x y z) (fun s => s.addrScaled y 8 z) 4 x

/-- On canonical memory, wherever the address is aligned to the width and its bytes exist, each of the ten stores
completes: the bytes at the form's address become the low bytes of register x, most significant first, every other
byte, every register and flag and all outside stay, pc advances. Kept flags are decision D6 (log 6), the advance is D3
(log 3). Rests on 45_stores.md (R240, R251 to R260); 20_memory.md sections 2 and 4. -/
def Obligations.StoreWordAndByte : Prop :=
  ∀ (x y z : Reg) (d : Byte),
    storeCompletes (.movwIndexed x y z) (fun s => s.addrIndexed y z) 2 x ∧
    storeCompletes (.movwDisp x d z) (fun s => s.addrDisp d z) 2 x ∧
    storeCompletes (.movwScaled2 x y z) (fun s => s.addrScaled y 2 z) 2 x ∧
    storeCompletes (.movwScaled4 x y z) (fun s => s.addrScaled y 4 z) 2 x ∧
    storeCompletes (.movwScaled8 x y z) (fun s => s.addrScaled y 8 z) 2 x ∧
    storeCompletes (.movbIndexed x y z) (fun s => s.addrIndexed y z) 1 x ∧
    storeCompletes (.movbDisp x d z) (fun s => s.addrDisp d z) 1 x ∧
    storeCompletes (.movbScaled2 x y z) (fun s => s.addrScaled y 2 z) 1 x ∧
    storeCompletes (.movbScaled4 x y z) (fun s => s.addrScaled y 4 z) 1 x ∧
    storeCompletes (.movbScaled8 x y z) (fun s => s.addrScaled y 8 z) 1 x

/-- For each of the 55 loads and stores: an address that is no multiple of the width faults with MisalignedAccess,
whatever exists; an aligned one with a byte missing faults with MemoryAccessFault and its kind. The outcomes are
decisions D12 and D14 (logs 12, 14). Rests on 20_memory.md section 3 (R43 to R45); 60_exceptions.md section 1 (R301,
R302). -/
def Obligations.DataAccessFaults : Prop :=
  ∀ (i : Instr) (s : State) (kind : AccessKind) (a : Addr) (n : Nat), dataAccess s i = some (kind, a, n) →
    (a.toNat % n ≠ 0 → exec i s = .fault (.misalignedAccess a n)) ∧
    (a.toNat % n = 0 → ¬ bytesExist s a n → exec i s = .fault (.memoryAccessFault a n kind))

/-- Without an exit cell both forms complete in every state and change nothing but the halted mark, with the low byte
of the register or the immediate as exit code. With an exit cell that exists the byte is also stored there, and there
only; with one that does not exist the step faults (decisions D16, D17; logs 20, 21). Kept flags are decision D6 (log
6). Rests on 46_system_io.md section 1 (R270, R271); 10_state.md section 6 (R30). -/
def Obligations.HaltEndsTheRun : Prop :=
  ∀ (x : Reg) (s : State), ∀ halt ∈ [(Instr.haltReg x, (s.reg x).extractLsb' 0 8), (Instr.haltImm x, x)],
    (s.params.haltExitCell = none → exec halt.1 s = .next { s with halted := some halt.2 }) ∧
    ∀ cell : Addr, s.params.haltExitCell = some cell →
      (Memory.wf s.mem → inMap s.params.memValid cell.toNat = true →
        ∃ t, exec halt.1 s = .next t ∧ t = { s with mem := t.mem, halted := some halt.2 } ∧
          storedAt s t cell 1 (halt.2.setWidth 64)) ∧
      (inMap s.params.memValid cell.toNat = false → exec halt.1 s = .fault (.memoryAccessFault cell 1 .write))

/-- With a byte in the input device getc completes: the byte is consumed, also with x = 0; register x has it in its
low byte, above it zeros under GETC_UPPER = zero and the old bits under preserve (any: unconstrained); every other
register, the flags, memory and the rest outside stay, pc advances. With no input no state changes (decision D18, logs
22, 23). Kept flags are decision D6 (log 6), the advance is D3 (log 3). Rests on 46_system_io.md section 2 (R272);
10_state.md section 6 (R29); 60_exceptions.md section 4 (R310). -/
def Obligations.GetcTakesOrWaits : Prop :=
  ∀ (x : Reg) (s : State),
    (s.input = [] → exec (.getc x) s = .next s) ∧
    ∀ (b : Byte) (rest : List Byte), s.input = b :: rest →
      ∃ (t : State) (upper : BitVec 56), exec (.getc x) s = .next t ∧ registersAfter s t [(x, upper ++ b)] ∧
        (s.params.getcUpper = .zero → upper = 0#56) ∧
        (s.params.getcUpper = .preserve → upper = (s.reg x).extractLsb' 8 56) ∧
        t.flags = s.flags ∧ t.mem = s.mem ∧ advanced s t ∧ t.input = rest ∧ t.output = s.output ∧
        t.halted = s.halted ∧ t.written = s.written ∧ t.readAnswers = s.readAnswers ∧
        t.writeAnswers = s.writeAnswers ∧ t.params = s.params

/-- The words 0x61 : X and 0x69 : X decode to putc %x and putc x, which complete in every state: the low byte of the
register or the immediate is appended to the output device, pc becomes pc + 4 modulo 2^64, nothing else changes. The
place of the bytes, the unused bytes and the advance are decisions D2 to D4 (logs 2 to 4), kept flags are D6 (log 6);
that the output device accepts every byte is log 44 (item I29). Rests on 46_system_io.md section 2 (R273, R274);
30_encoding.md section 1 (R62). -/
def Obligations.PutcAppendsOutput : Prop :=
  ∀ (x y z : Byte) (s : State),
    decode [0x61#8, x, y, z] = .ok (.putcReg x, []) ∧ decode [0x69#8, x, y, z] = .ok (.putcImm x, []) ∧
    exec (.putcReg x) s =
      .next { s with output := s.output ++ [(s.reg x).extractLsb' 0 8], pc := pat64 (s.pc.toNat + 4) } ∧
    exec (.putcImm x) s = .next { s with output := s.output ++ [x], pc := pat64 (s.pc.toNat + 4) }

/-- Every word 0xFF : X : Y : Z decodes to nop, which completes in every state and changes pc alone, to pc + 4 modulo
2^64. The place of the bytes, the unused bytes and the advance are decisions D2 to D4 (logs 2 to 4), kept flags are D6
(log 6). Rests on 46_system_io.md section 2 (R275); 30_encoding.md section 1 (R62). -/
def Obligations.NopOnlyAdvances : Prop :=
  ∀ (x y z : Byte) (s : State),
    decode [0xFF#8, x, y, z] = .ok (.nop, []) ∧ exec .nop s = .next { s with pc := pat64 (s.pc.toNat + 4) }

/-- With a number that TRAP_TABLE gives to read and a block in order, for every answer of the environment: delivered
bytes, the first nbyte of them, lie in order at the buffer if those bytes exist, every other byte stays and register z
receives the count; an error e leaves memory and z receives -e; no answer yet leaves the whole state. Flags and all
other registers stay, pc advances, one answer is used. The service is the environment's (decisions D24, D25; logs 31
to 35). Kept flags are decision D6 (log 6), the advance is D3 (log 3). Rests on 46_system_io.md section 3 (R280 to
R282, R284); 60_exceptions.md section 3 (R304, R305). -/
def Obligations.TrapRead : Prop :=
  ∀ (x y z : Reg) (s : State), Memory.wf s.mem →
    s.params.trapTable.lookup (s.reg x).toNat = some .read → blockReadable s (s.reg y) →
    (s.readAnswer (blockAt s (s.reg y)) = none → exec (.trap x y z) s = .next s) ∧
    (∀ e : Errno, s.readAnswer (blockAt s (s.reg y)) = some (.failed e) →
      ∃ t, exec (.trap x y z) s = .next t ∧ registersAfter s t [(z, pat64 (-(e.val : Int)))] ∧ sameMemory s t ∧
        t = { s with regs := t.regs, pc := s.pc + 4#64, readAnswers := s.readAnswers.tail, freeCount := t.freeCount }) ∧
    ∀ (bytes : List Byte) (k : Nat), s.readAnswer (blockAt s (s.reg y)) = some (.delivered bytes) →
      k = min (blockAt s (s.reg y)).nbyte bytes.length → bytesExist s (blockAt s (s.reg y)).buf k →
      ∃ t, exec (.trap x y z) s = .next t ∧ registersAfter s t [(z, BitVec.ofNat 64 k)] ∧
        (∀ (i : Nat) (b : Byte), i < k → bytes[i]? = some b →
          Memory.byteAt t.mem (Memory.cell (blockAt s (s.reg y)).buf i) = b) ∧
        (∀ a, (∀ i, i < k → a ≠ Memory.cell (blockAt s (s.reg y)).buf i) →
          Memory.byteAt t.mem a = Memory.byteAt s.mem a) ∧
        t = { s with
          regs := t.regs, mem := t.mem, pc := s.pc + 4#64, readAnswers := s.readAnswers.tail, freeCount := t.freeCount }

/-- With a number that TRAP_TABLE gives to write, a block in order and all nbyte source bytes in existence, for every
answer of the environment: with k accepted, at most nbyte, the first k bytes of the buffer are handed to the
descriptor and register z receives k; with an error e register z receives -e; no answer yet leaves the whole state.
Memory, flags and all other registers stay, pc advances, one answer is used (decisions D24, D25; logs 31 to 36). The
descriptor of the record is read as a signed 32-bit number (log 47, PRESUMED). Kept flags are decision D6 (log 6), the
advance is D3 (log 3). Rests on 46_system_io.md section 3 (R280, R281, R283, R284); 60_exceptions.md section 3 (R304,
R305). -/
def Obligations.TrapWrite : Prop :=
  ∀ (x y z : Reg) (s : State) (data : List Byte),
    s.params.trapTable.lookup (s.reg x).toNat = some .write → blockReadable s (s.reg y) →
    bytesExist s (blockAt s (s.reg y)).buf (blockAt s (s.reg y)).nbyte →
    data = Memory.readBytes s.mem (blockAt s (s.reg y)).buf (blockAt s (s.reg y)).nbyte →
    (s.writeAnswer (blockAt s (s.reg y)) data = none → exec (.trap x y z) s = .next s) ∧
    (∀ e : Errno, s.writeAnswer (blockAt s (s.reg y)) data = some (.failed e) →
      ∃ t, exec (.trap x y z) s = .next t ∧ registersAfter s t [(z, pat64 (-(e.val : Int)))] ∧
        t = { s with regs := t.regs, pc := s.pc + 4#64, writeAnswers := s.writeAnswers.tail, freeCount := t.freeCount }) ∧
    ∀ count k : Nat, s.writeAnswer (blockAt s (s.reg y)) data = some (.accepted count) →
      k = min count (blockAt s (s.reg y)).nbyte →
      ∃ t, exec (.trap x y z) s = .next t ∧ registersAfter s t [(z, BitVec.ofNat 64 k)] ∧
        t = { s with
          regs := t.regs
          pc := s.pc + 4#64
          written := s.written ++ [⟨(blockAt s (s.reg y)).fd, data.take k⟩]
          writeAnswers := s.writeAnswers.tail
          freeCount := t.freeCount }

/-- A number outside TRAP_TABLE faults with UnknownTrap; a number of a service the source does not describe is refused
by name; for read and write a block not 8-aligned, then a block with a byte missing, then the first missing byte of
the buffer that is to be stored or read faults (decisions D24, D25; logs 31, 32, 35, 46). Rests on 46_system_io.md
section 3 (R280 to R284); 60_exceptions.md section 1 (R301, R302). -/
def Obligations.TrapStops : Prop :=
  ∀ (x y z : Reg) (s : State),
    (s.params.trapTable.lookup (s.reg x).toNat = none →
      exec (.trap x y z) s = .fault (.unknownTrap s.pc (s.reg x).toNat)) ∧
    (s.params.trapTable.lookup (s.reg x).toNat = some .undescribed →
      exec (.trap x y z) s = .refused (.undescribedService s.pc (s.reg x).toNat)) ∧
    (s.params.trapTable.lookup (s.reg x).toNat = some .read ∨ s.params.trapTable.lookup (s.reg x).toNat = some .write →
      ((s.reg y).toNat % 8 ≠ 0 → exec (.trap x y z) s = .fault (.misalignedAccess (s.reg y) 8)) ∧
      ((s.reg y).toNat % 8 = 0 → ¬ bytesExist s (s.reg y) 24 →
        exec (.trap x y z) s = .fault (.memoryAccessFault (s.reg y) 24 .read))) ∧
    (blockReadable s (s.reg y) → ∀ i : Nat, firstMissing s (blockAt s (s.reg y)).buf i →
      (s.params.trapTable.lookup (s.reg x).toNat = some .read →
        ∀ bytes, s.readAnswer (blockAt s (s.reg y)) = some (.delivered bytes) →
          i < min (blockAt s (s.reg y)).nbyte bytes.length →
          exec (.trap x y z) s =
            .fault (.memoryAccessFault ((blockAt s (s.reg y)).buf + BitVec.ofNat 64 i) 1 .write)) ∧
      (s.params.trapTable.lookup (s.reg x).toNat = some .write → i < (blockAt s (s.reg y)).nbyte →
        exec (.trap x y z) s =
          .fault (.memoryAccessFault ((blockAt s (s.reg y)).buf + BitVec.ofNat 64 i) 1 .read)))
end

