-- ==== Sys2Proof/Laws/Memory.lean ====
section
/-! SUPPORT. The laws of the byte memory: read after write, and every operation keeps the canonical form `Memory.wf`. -/

namespace Sys2Proof.Machine

/-! ### One byte -/

/-- An address that memory does not list reads as `Memory.unlisted`. -/
theorem Memory.byteAt_absent (m : Memory) (x : Nat) (h : ∀ d ∈ m, x ≠ d.1) :
    Memory.byteAt m x = Memory.unlisted := by
  induction m with
  | nil => rfl
  | cons d m ih =>
    have hd : x ≠ d.1 := h d (by simp)
    simp only [Memory.byteAt, hd, if_false]
    exact ih (fun e he => h e (by simp [he]))

/-- Reading after `put`: the byte put at its own address, the old byte anywhere else, on memory whose addresses rise. -/
theorem Memory.byteAt_put (m : Memory) (a : Nat) (v : Byte) (k : Nat)
    (h : m.Pairwise (fun c d => c.1 < d.1)) :
    Memory.byteAt (Memory.put m a v) k = if k = a then v else Memory.byteAt m k := by
  induction m with
  | nil =>
    simp only [Memory.put]
    split
    · simp_all [Memory.byteAt]
    · simp [Memory.byteAt]
  | cons c m ih =>
    obtain ⟨j, b⟩ := c
    rw [List.pairwise_cons] at h
    have ih := ih h.2
    have habs : ∀ x, x ≤ j → Memory.byteAt m x = Memory.unlisted := fun x hx =>
      Memory.byteAt_absent m x fun d hd => by have := h.1 d hd; simp only at this; omega
    simp only [Memory.put]
    split
    · rename_i hlt
      split
      · rename_i hv
        by_cases hk : k = a
        · subst hk
          have hne : k ≠ j := by omega
          simp [Memory.byteAt, hne, habs k (by omega), hv]
        · simp [hk]
      · by_cases hk : k = a <;> simp [Memory.byteAt, hk]
    · split
      · rename_i _ haj
        subst haj
        split
        · rename_i hv
          by_cases hk : k = a
          · subst hk; simp [habs k (by omega), hv]
          · simp [Memory.byteAt, hk]
        · by_cases hk : k = a <;> simp [Memory.byteAt, hk]
      · rename_i _ haj
        by_cases hkj : k = j
        · subst hkj
          have : ¬ k = a := fun e => haj e.symm
          simp [Memory.byteAt, this]
        · simp only [Memory.byteAt, hkj, if_false, ih]

/-- The entries after `put` are the one put and entries that were there. -/
theorem Memory.mem_put (m : Memory) (a : Nat) (v : Byte) (c : Host.Cell) (h : c ∈ Memory.put m a v) :
    (c = (a, v) ∧ v ≠ Memory.unlisted) ∨ c ∈ m := by
  induction m with
  | nil =>
    simp only [Memory.put] at h
    split at h
    · simp at h
    · rename_i hv; simp at h; exact .inl ⟨h, hv⟩
  | cons d m ih =>
    obtain ⟨j, b⟩ := d
    simp only [Memory.put] at h
    split at h
    · split at h
      · exact .inr h
      · rename_i hv
        rcases List.mem_cons.1 h with h | h
        · exact .inl ⟨h, hv⟩
        · exact .inr h
    · split at h
      · split at h
        · exact .inr (by simp [h])
        · rename_i hv
          rcases List.mem_cons.1 h with h | h
          · exact .inl ⟨h, hv⟩
          · exact .inr (by simp [h])
      · rcases List.mem_cons.1 h with h | h
        · exact .inr (by simp [h])
        · rcases ih h with h | h
          · exact .inl h
          · exact .inr (by simp [h])

/-- `put` keeps the addresses strictly rising. -/
theorem Memory.sorted_put (m : Memory) (a : Nat) (v : Byte) (h : m.Pairwise (fun c d => c.1 < d.1)) :
    (Memory.put m a v).Pairwise (fun c d => c.1 < d.1) := by
  induction m with
  | nil => simp only [Memory.put]; split <;> simp
  | cons d m ih =>
    obtain ⟨j, b⟩ := d
    have h' := h
    rw [List.pairwise_cons] at h'
    simp only [Memory.put]
    split
    · rename_i hlt
      split
      · exact h
      · rw [List.pairwise_cons]
        refine ⟨fun e he => ?_, h⟩
        rcases List.mem_cons.1 he with rfl | he
        · exact hlt
        · exact Nat.lt_trans hlt (h'.1 e he)
    · split
      · rename_i _ haj
        subst haj
        split
        · exact h'.2
        · rw [List.pairwise_cons]; exact h'
      · rename_i hge hne
        rw [List.pairwise_cons]
        refine ⟨fun e he => ?_, ih h'.2⟩
        rcases Memory.mem_put m a v e he with ⟨rfl, -⟩ | he
        · simp only; omega
        · exact h'.1 e he

/-- `put` keeps the canonical form. -/
theorem Memory.wf_put (m : Memory) (a : Nat) (v : Byte) (ha : a < 2 ^ 64) (h : Memory.wf m) :
    Memory.wf (Memory.put m a v) := by
  refine ⟨Memory.sorted_put m a v h.1, fun c hc => ?_⟩
  rcases Memory.mem_put m a v c hc with ⟨rfl, hv⟩ | hc
  · exact ⟨hv, ha⟩
  · exact h.2 c hc

/-! ### Several bytes -/

/-- The address `i + 1` bytes after `a` is `i` bytes after `a + 1`. -/
theorem Memory.cell_succ (a : Addr) (i : Nat) : Memory.cell (a + 1#64) i = Memory.cell a (i + 1) := by
  simp [Memory.cell, BitVec.toNat_add]; omega

@[simp] theorem Memory.cell_zero (a : Addr) : Memory.cell a 0 = a.toNat := by
  have := a.isLt; simp only [Memory.cell]; omega

theorem Memory.cell_lt (a : Addr) (i : Nat) : Memory.cell a i < 2 ^ 64 := Nat.mod_lt _ (by decide)

/-- Distinct offsets below 2^64 are distinct addresses. -/
theorem Memory.cell_inj (a : Addr) (i j : Nat) (hi : i < 2 ^ 64) (hj : j < 2 ^ 64)
    (h : Memory.cell a i = Memory.cell a j) : i = j := by
  have := a.isLt; simp only [Memory.cell] at h; omega

/-- The entries after `writeBytes` lie at the written addresses or were there. -/
theorem Memory.mem_writeBytes (bs : List Byte) : ∀ (m : Memory) (a : Addr) (c : Host.Cell),
    c ∈ Memory.writeBytes m a bs → (∃ i, i < bs.length ∧ c.1 = Memory.cell a i) ∨ c ∈ m := by
  induction bs with
  | nil => intro m a c h; exact .inr h
  | cons b bs ih =>
    intro m a c h
    rcases ih _ _ c h with ⟨i, hi, e⟩ | h
    · exact .inl ⟨i + 1, by simp; omega, by rw [e, Memory.cell_succ]⟩
    · rcases Memory.mem_put _ _ _ _ h with ⟨rfl, -⟩ | h
      · exact .inl ⟨0, by simp, by simp⟩
      · exact .inr h

/-- `writeBytes` keeps the canonical form. -/
theorem Memory.wf_writeBytes (bs : List Byte) : ∀ (m : Memory) (a : Addr),
    Memory.wf m → Memory.wf (Memory.writeBytes m a bs) := by
  induction bs with
  | nil => intro m a h; exact h
  | cons b bs ih => intro m a h; exact ih _ _ (Memory.wf_put m a.toNat b a.isLt h)

/-- `writeBytes` keeps the addresses strictly rising. -/
theorem Memory.sorted_writeBytes (bs : List Byte) : ∀ (m : Memory) (a : Addr),
    m.Pairwise (fun c d => c.1 < d.1) → (Memory.writeBytes m a bs).Pairwise (fun c d => c.1 < d.1) := by
  induction bs with
  | nil => intro m a h; exact h
  | cons b bs ih => intro m a h; exact ih _ _ (Memory.sorted_put m a.toNat b h)

/-- Reading outside the written bytes gives what it gave before. -/
theorem Memory.byteAt_writeBytes_other (bs : List Byte) : ∀ (m : Memory) (a : Addr) (k : Nat),
    m.Pairwise (fun c d => c.1 < d.1) → (∀ i, i < bs.length → k ≠ Memory.cell a i) →
    Memory.byteAt (Memory.writeBytes m a bs) k = Memory.byteAt m k := by
  induction bs with
  | nil => intro m a k _ _; rfl
  | cons b bs ih =>
    intro m a k hm hk
    have h0 : k ≠ a.toNat := by simpa using hk 0 (by simp)
    rw [Memory.writeBytes, ih _ _ _ (Memory.sorted_put _ _ _ hm), Memory.byteAt_put _ _ _ _ hm, if_neg h0]
    intro i hi; rw [Memory.cell_succ]; exact hk (i + 1) (by simp; omega)

/-- Reading the `i`-th written byte gives it. -/
theorem Memory.byteAt_writeBytes (bs : List Byte) : ∀ (m : Memory) (a : Addr) (i : Nat),
    m.Pairwise (fun c d => c.1 < d.1) → bs.length ≤ 2 ^ 64 → (h : i < bs.length) →
    Memory.byteAt (Memory.writeBytes m a bs) (Memory.cell a i) = bs[i] := by
  induction bs with
  | nil => intro m a i _ _ h; simp at h
  | cons b bs ih =>
    intro m a i hm hl h
    have hs := Memory.sorted_put m a.toNat b hm
    rw [List.length_cons] at hl h
    cases i with
    | zero =>
      rw [Memory.writeBytes, Memory.byteAt_writeBytes_other bs _ _ _ hs, Memory.byteAt_put _ _ _ _ hm]
      · simp
      · intro i hi; rw [Memory.cell_succ]
        intro e; exact absurd (Memory.cell_inj a 0 (i + 1) (by omega) (by omega) e) (by omega)
    | succ i =>
      rw [Memory.writeBytes, ← Memory.cell_succ, ih _ _ i hs (by omega) (by omega)]; simp

@[simp] theorem Memory.length_readBytes (m : Memory) (a : Addr) (n : Nat) : (Memory.readBytes m a n).length = n := by
  simp [Memory.readBytes]

/-- What was written is read back. -/
theorem Memory.readBytes_writeBytes (m : Memory) (a : Addr) (bs : List Byte)
    (hm : m.Pairwise (fun c d => c.1 < d.1)) (hl : bs.length ≤ 2 ^ 64) :
    Memory.readBytes (Memory.writeBytes m a bs) a bs.length = bs := by
  apply List.ext_getElem (by simp)
  intro i h1 h2
  simp only [Memory.readBytes, List.getElem_map, List.getElem_range]
  exact Memory.byteAt_writeBytes bs m a i hm hl h2

@[simp] theorem length_bigEndianBytes (n : Nat) (v : Quad) : (bigEndianBytes n v).length = n := by
  simp [bigEndianBytes]

/-- Reset's memory is in canonical form. -/
theorem reset_mem_wf : Memory.wf State.reset.mem := ⟨List.Pairwise.nil, fun _ h => absurd h (List.not_mem_nil)⟩

end Sys2Proof.Machine
end

