-- ==== Sys2Proof/Laws/State.lean ====
section
/-! SUPPORT. One lemma per field per update of State, and the laws of the register file (rules R12, R22). -/

namespace Sys2Proof.Machine

variable (s : State)

/-! ### Fields after an update -/

@[simp] theorem State.setPc_regs (t : Addr) : (s.setPc t).regs = s.regs := rfl
@[simp] theorem State.setPc_pc (t : Addr) : (s.setPc t).pc = t := rfl
@[simp] theorem State.setPc_flags (t : Addr) : (s.setPc t).flags = s.flags := rfl
@[simp] theorem State.setPc_mem (t : Addr) : (s.setPc t).mem = s.mem := rfl
@[simp] theorem State.setPc_halted (t : Addr) : (s.setPc t).halted = s.halted := rfl
@[simp] theorem State.setPc_input (t : Addr) : (s.setPc t).input = s.input := rfl
@[simp] theorem State.setPc_output (t : Addr) : (s.setPc t).output = s.output := rfl
@[simp] theorem State.setPc_written (t : Addr) : (s.setPc t).written = s.written := rfl
@[simp] theorem State.setPc_readAnswers (t : Addr) : (s.setPc t).readAnswers = s.readAnswers := rfl
@[simp] theorem State.setPc_writeAnswers (t : Addr) : (s.setPc t).writeAnswers = s.writeAnswers := rfl
@[simp] theorem State.setPc_params (t : Addr) : (s.setPc t).params = s.params := rfl
@[simp] theorem State.setPc_freeCount (t : Addr) : (s.setPc t).freeCount = s.freeCount := rfl

@[simp] theorem State.setFlags_regs (f : Flags) : (s.setFlags f).regs = s.regs := rfl
@[simp] theorem State.setFlags_pc (f : Flags) : (s.setFlags f).pc = s.pc := rfl
@[simp] theorem State.setFlags_flags (f : Flags) : (s.setFlags f).flags = f := rfl
@[simp] theorem State.setFlags_mem (f : Flags) : (s.setFlags f).mem = s.mem := rfl
@[simp] theorem State.setFlags_halted (f : Flags) : (s.setFlags f).halted = s.halted := rfl
@[simp] theorem State.setFlags_input (f : Flags) : (s.setFlags f).input = s.input := rfl
@[simp] theorem State.setFlags_output (f : Flags) : (s.setFlags f).output = s.output := rfl
@[simp] theorem State.setFlags_written (f : Flags) : (s.setFlags f).written = s.written := rfl
@[simp] theorem State.setFlags_readAnswers (f : Flags) : (s.setFlags f).readAnswers = s.readAnswers := rfl
@[simp] theorem State.setFlags_writeAnswers (f : Flags) : (s.setFlags f).writeAnswers = s.writeAnswers := rfl
@[simp] theorem State.setFlags_params (f : Flags) : (s.setFlags f).params = s.params := rfl
@[simp] theorem State.setFlags_freeCount (f : Flags) : (s.setFlags f).freeCount = s.freeCount := rfl

@[simp] theorem State.advance_regs : (s.advance).regs = s.regs := rfl
@[simp] theorem State.advance_pc : (s.advance).pc = s.nextPc := rfl
@[simp] theorem State.advance_flags : (s.advance).flags = s.flags := rfl
@[simp] theorem State.advance_mem : (s.advance).mem = s.mem := rfl
@[simp] theorem State.advance_halted : (s.advance).halted = s.halted := rfl
@[simp] theorem State.advance_input : (s.advance).input = s.input := rfl
@[simp] theorem State.advance_output : (s.advance).output = s.output := rfl
@[simp] theorem State.advance_written : (s.advance).written = s.written := rfl
@[simp] theorem State.advance_readAnswers : (s.advance).readAnswers = s.readAnswers := rfl
@[simp] theorem State.advance_writeAnswers : (s.advance).writeAnswers = s.writeAnswers := rfl
@[simp] theorem State.advance_params : (s.advance).params = s.params := rfl
@[simp] theorem State.advance_freeCount : (s.advance).freeCount = s.freeCount := rfl

@[simp] theorem State.setReg_pc (r : Reg) (v : Quad) : (s.setReg r v).pc = s.pc := by unfold State.setReg; split <;> rfl
@[simp] theorem State.setReg_flags (r : Reg) (v : Quad) : (s.setReg r v).flags = s.flags := by unfold State.setReg; split <;> rfl
@[simp] theorem State.setReg_mem (r : Reg) (v : Quad) : (s.setReg r v).mem = s.mem := by unfold State.setReg; split <;> rfl
@[simp] theorem State.setReg_halted (r : Reg) (v : Quad) : (s.setReg r v).halted = s.halted := by unfold State.setReg; split <;> rfl
@[simp] theorem State.setReg_input (r : Reg) (v : Quad) : (s.setReg r v).input = s.input := by unfold State.setReg; split <;> rfl
@[simp] theorem State.setReg_output (r : Reg) (v : Quad) : (s.setReg r v).output = s.output := by unfold State.setReg; split <;> rfl
@[simp] theorem State.setReg_written (r : Reg) (v : Quad) : (s.setReg r v).written = s.written := by unfold State.setReg; split <;> rfl
@[simp] theorem State.setReg_readAnswers (r : Reg) (v : Quad) : (s.setReg r v).readAnswers = s.readAnswers := by unfold State.setReg; split <;> rfl
@[simp] theorem State.setReg_writeAnswers (r : Reg) (v : Quad) : (s.setReg r v).writeAnswers = s.writeAnswers := by unfold State.setReg; split <;> rfl
@[simp] theorem State.setReg_params (r : Reg) (v : Quad) : (s.setReg r v).params = s.params := by unfold State.setReg; split <;> rfl
@[simp] theorem State.setReg_freeCount (r : Reg) (v : Quad) : (s.setReg r v).freeCount = s.freeCount := by unfold State.setReg; split <;> rfl

@[simp] theorem State.out_regs (b : Byte) : (s.out b).regs = s.regs := rfl
@[simp] theorem State.out_pc (b : Byte) : (s.out b).pc = s.pc := rfl
@[simp] theorem State.out_flags (b : Byte) : (s.out b).flags = s.flags := rfl
@[simp] theorem State.out_mem (b : Byte) : (s.out b).mem = s.mem := rfl
@[simp] theorem State.out_halted (b : Byte) : (s.out b).halted = s.halted := rfl
@[simp] theorem State.out_input (b : Byte) : (s.out b).input = s.input := rfl
@[simp] theorem State.out_output (b : Byte) : (s.out b).output = s.output ++ [b] := rfl
@[simp] theorem State.out_written (b : Byte) : (s.out b).written = s.written := rfl
@[simp] theorem State.out_readAnswers (b : Byte) : (s.out b).readAnswers = s.readAnswers := rfl
@[simp] theorem State.out_writeAnswers (b : Byte) : (s.out b).writeAnswers = s.writeAnswers := rfl
@[simp] theorem State.out_params (b : Byte) : (s.out b).params = s.params := rfl
@[simp] theorem State.out_freeCount (b : Byte) : (s.out b).freeCount = s.freeCount := rfl

@[simp] theorem State.tookReadAnswer_regs : (s.tookReadAnswer).regs = s.regs := by unfold State.tookReadAnswer; split <;> rfl
@[simp] theorem State.tookReadAnswer_pc : (s.tookReadAnswer).pc = s.pc := by unfold State.tookReadAnswer; split <;> rfl
@[simp] theorem State.tookReadAnswer_flags : (s.tookReadAnswer).flags = s.flags := by unfold State.tookReadAnswer; split <;> rfl
@[simp] theorem State.tookReadAnswer_mem : (s.tookReadAnswer).mem = s.mem := by unfold State.tookReadAnswer; split <;> rfl
@[simp] theorem State.tookReadAnswer_halted : (s.tookReadAnswer).halted = s.halted := by unfold State.tookReadAnswer; split <;> rfl
@[simp] theorem State.tookReadAnswer_input : (s.tookReadAnswer).input = s.input := by unfold State.tookReadAnswer; split <;> rfl
@[simp] theorem State.tookReadAnswer_output : (s.tookReadAnswer).output = s.output := by unfold State.tookReadAnswer; split <;> rfl
@[simp] theorem State.tookReadAnswer_written : (s.tookReadAnswer).written = s.written := by unfold State.tookReadAnswer; split <;> rfl
@[simp] theorem State.tookReadAnswer_writeAnswers : (s.tookReadAnswer).writeAnswers = s.writeAnswers := by unfold State.tookReadAnswer; split <;> rfl
@[simp] theorem State.tookReadAnswer_params : (s.tookReadAnswer).params = s.params := by unfold State.tookReadAnswer; split <;> rfl

@[simp] theorem State.tookWriteAnswer_regs : (s.tookWriteAnswer).regs = s.regs := by unfold State.tookWriteAnswer; split <;> rfl
@[simp] theorem State.tookWriteAnswer_pc : (s.tookWriteAnswer).pc = s.pc := by unfold State.tookWriteAnswer; split <;> rfl
@[simp] theorem State.tookWriteAnswer_flags : (s.tookWriteAnswer).flags = s.flags := by unfold State.tookWriteAnswer; split <;> rfl
@[simp] theorem State.tookWriteAnswer_mem : (s.tookWriteAnswer).mem = s.mem := by unfold State.tookWriteAnswer; split <;> rfl
@[simp] theorem State.tookWriteAnswer_halted : (s.tookWriteAnswer).halted = s.halted := by unfold State.tookWriteAnswer; split <;> rfl
@[simp] theorem State.tookWriteAnswer_input : (s.tookWriteAnswer).input = s.input := by unfold State.tookWriteAnswer; split <;> rfl
@[simp] theorem State.tookWriteAnswer_output : (s.tookWriteAnswer).output = s.output := by unfold State.tookWriteAnswer; split <;> rfl
@[simp] theorem State.tookWriteAnswer_written : (s.tookWriteAnswer).written = s.written := by unfold State.tookWriteAnswer; split <;> rfl
@[simp] theorem State.tookWriteAnswer_readAnswers : (s.tookWriteAnswer).readAnswers = s.readAnswers := by unfold State.tookWriteAnswer; split <;> rfl
@[simp] theorem State.tookWriteAnswer_params : (s.tookWriteAnswer).params = s.params := by unfold State.tookWriteAnswer; split <;> rfl

@[simp] theorem State.tookGetcBits_regs : (s.tookGetcBits).regs = s.regs := by unfold State.tookGetcBits; split <;> rfl
@[simp] theorem State.tookGetcBits_pc : (s.tookGetcBits).pc = s.pc := by unfold State.tookGetcBits; split <;> rfl
@[simp] theorem State.tookGetcBits_flags : (s.tookGetcBits).flags = s.flags := by unfold State.tookGetcBits; split <;> rfl
@[simp] theorem State.tookGetcBits_mem : (s.tookGetcBits).mem = s.mem := by unfold State.tookGetcBits; split <;> rfl
@[simp] theorem State.tookGetcBits_halted : (s.tookGetcBits).halted = s.halted := by unfold State.tookGetcBits; split <;> rfl
@[simp] theorem State.tookGetcBits_input : (s.tookGetcBits).input = s.input := by unfold State.tookGetcBits; split <;> rfl
@[simp] theorem State.tookGetcBits_output : (s.tookGetcBits).output = s.output := by unfold State.tookGetcBits; split <;> rfl
@[simp] theorem State.tookGetcBits_written : (s.tookGetcBits).written = s.written := by unfold State.tookGetcBits; split <;> rfl
@[simp] theorem State.tookGetcBits_readAnswers : (s.tookGetcBits).readAnswers = s.readAnswers := by unfold State.tookGetcBits; split <;> rfl
@[simp] theorem State.tookGetcBits_writeAnswers : (s.tookGetcBits).writeAnswers = s.writeAnswers := by unfold State.tookGetcBits; split <;> rfl
@[simp] theorem State.tookGetcBits_params : (s.tookGetcBits).params = s.params := by unfold State.tookGetcBits; split <;> rfl

/-! ### The register file -/

/-- The zero register reads as zero (rule R22). -/
@[simp] theorem State.reg_zero : s.reg 0#8 = 0#64 := rfl

/-- A write to the zero register changes no state (rule R22). -/
@[simp] theorem State.setReg_zero (v : Quad) : s.setReg 0#8 v = s := rfl

/-- A register's value depends on the register file only. -/
theorem State.reg_congr (s t : State) (h : s.regs = t.regs) (r : Reg) : s.reg r = t.reg r := by
  simp only [State.reg, h]

/-- A register after a write: the value written where it is the destination and not the zero register, else as before. -/
theorem State.reg_setReg (z r : Reg) (v : Quad) :
    (s.setReg z v).reg r = if r = z ∧ r ≠ 0#8 then v else s.reg r := by
  by_cases hr : r = 0#8
  · subst hr; simp
  · by_cases hz : z = 0#8
    · subst hz; simp [hr]
    · have hlt := r.isLt
      have hzlt := z.isLt
      have hr' : r.toNat ≠ 0 := fun h => hr (BitVec.eq_of_toNat_eq (by simpa using h))
      have hz' : z.toNat ≠ 0 := fun h => hz (BitVec.eq_of_toNat_eq (by simpa using h))
      by_cases hrz : r = z
      · subst hrz
        have hb : r.toNat - 1 < 255 := by omega
        simp [State.reg, State.setReg, hr, hb]
      · have hne : ¬ z.toNat - 1 = r.toNat - 1 := by
          intro h; apply hrz; apply BitVec.eq_of_toNat_eq; omega
        simp [State.reg, State.setReg, hr, hz, hrz, Vector.getElem?_setIfInBounds_ne, hne]

@[simp] theorem State.reg_setPc (t : Addr) (r : Reg) : (s.setPc t).reg r = s.reg r := rfl
@[simp] theorem State.reg_setFlags (f : Flags) (r : Reg) : (s.setFlags f).reg r = s.reg r := rfl
@[simp] theorem State.reg_advance (r : Reg) : s.advance.reg r = s.reg r := rfl
@[simp] theorem State.reg_out (b : Byte) (r : Reg) : (s.out b).reg r = s.reg r := rfl
@[simp] theorem State.reg_with_mem (m : Memory) (r : Reg) : ({ s with mem := m } : State).reg r = s.reg r := rfl
/-- The register file read through a state that keeps `regs` and replaces other fields. -/
@[simp] theorem State.reg_mk (p : Addr) (f : Flags) (m : Memory) (h : Option Byte) (i o : List Byte) (w : List WriteRecord)
    (ra : List (Option ReadAnswer)) (wa : List (Option WriteAnswer)) (ps : Params) (n : Nat) (r : Reg) :
    (State.mk s.regs p f m h i o w ra wa ps n).reg r = s.reg r := rfl
@[simp] theorem State.reg_tookReadAnswer (r : Reg) : s.tookReadAnswer.reg r = s.reg r :=
  State.reg_congr _ _ (by simp) r
@[simp] theorem State.reg_tookWriteAnswer (r : Reg) : s.tookWriteAnswer.reg r = s.reg r :=
  State.reg_congr _ _ (by simp) r
@[simp] theorem State.reg_tookGetcBits (r : Reg) : s.tookGetcBits.reg r = s.reg r :=
  State.reg_congr _ _ (by simp) r

@[simp] theorem State.nextPc_setReg (r : Reg) (v : Quad) : (s.setReg r v).nextPc = s.nextPc := by simp [State.nextPc]
@[simp] theorem State.nextPc_setFlags (f : Flags) : (s.setFlags f).nextPc = s.nextPc := rfl

end Sys2Proof.Machine
end

