-- ==== Sys2Proof/Laws/Access.lean ====
section
/-! SUPPORT. For each shared operation one lemma that says once all it can do; callers cite these and unfold nothing. -/

namespace Sys2Proof.Machine

/-! ### Checks -/

theorem valid_iff (s : State) (a : Addr) (n : Nat) :
    s.valid a n = true ↔ ∀ i, i < n → inMap s.params.memValid (Memory.cell a i) = true := by
  simp [State.valid, List.all_eq_true]

/-- The checks pass exactly for an aligned access to bytes that exist. -/
theorem checkAccess_ok_iff (s : State) (a : Addr) (n : Nat) (k : AccessKind) :
    s.checkAccess a n k = .ok () ↔ accessible s a n := by
  unfold State.checkAccess accessible
  rw [← valid_iff]
  split
  · rename_i h; simp [h]
  · rename_i h; split <;> simp_all

/-- A misaligned access faults as such, whatever exists (rule R302 (7)). -/
theorem checkAccess_misaligned (s : State) (a : Addr) (n : Nat) (k : AccessKind) (h : a.toNat % n ≠ 0) :
    s.checkAccess a n k = .error (.misalignedAccess a n) := by
  simp [State.checkAccess, h]

/-- An aligned access to bytes that do not all exist faults as such. -/
theorem checkAccess_invalid (s : State) (a : Addr) (n : Nat) (k : AccessKind) (h : a.toNat % n = 0)
    (hv : ¬ ∀ i, i < n → inMap s.params.memValid (Memory.cell a i) = true) :
    s.checkAccess a n k = .error (.memoryAccessFault a n k) := by
  rw [← valid_iff] at hv
  simp [State.checkAccess, h, hv]

/-- Every byte address exists in the machine after reset. -/
theorem inMap_default (k : Nat) (h : k < 2 ^ 64) : inMap Params.default.memValid k = true := by
  simp only [inMap, Params.default, List.any_cons, List.any_nil, Bool.or_false, Bool.and_eq_true, decide_eq_true_eq]
  omega

/-! ### Memory primitives, loads, stores -/

theorem memRead_ok (s : State) (a : Addr) (n : Nat) (h : accessible s a n) :
    s.memRead a n = .ok (bigEndianValue (Memory.readBytes s.mem a n)) := by
  simp [State.memRead, (checkAccess_ok_iff s a n .read).2 h]

theorem memWrite_ok (s : State) (a : Addr) (n : Nat) (v : Quad) (h : accessible s a n) :
    s.memWrite a n v = .ok { s with mem := Memory.writeBytes s.mem a (bigEndianBytes n v) } := by
  simp [State.memWrite, (checkAccess_ok_iff s a n .write).2 h]

/-- If `memRead` answers a value, the access was in order and the value is the big-endian datum. -/
theorem memRead_cases (s : State) (a : Addr) (n v : Nat) (h : s.memRead a n = .ok v) :
    accessible s a n ∧ v = bigEndianValue (Memory.readBytes s.mem a n) := by
  unfold State.memRead at h
  split at h
  · cases h
  · rename_i hc; cases h; exact ⟨(checkAccess_ok_iff ..).1 hc, rfl⟩

/-- If `memWrite` answers a state, the access was in order and only memory has changed. -/
theorem memWrite_cases (s : State) (a : Addr) (n : Nat) (v : Quad) (t : State) (h : s.memWrite a n v = .ok t) :
    accessible s a n ∧ t = { s with mem := Memory.writeBytes s.mem a (bigEndianBytes n v) } := by
  unfold State.memWrite at h
  split at h
  · cases h
  · rename_i hc; cases h; exact ⟨(checkAccess_ok_iff ..).1 hc, rfl⟩

theorem load_next (s : State) (a : Addr) (n : Nat) (e : Nat → Quad) (z : Reg) (h : accessible s a n) :
    s.load a n e z = .next ((s.setReg z (e (bigEndianValue (Memory.readBytes s.mem a n)))).advance) := by
  simp [State.load, memRead_ok s a n h]

theorem load_cases (s : State) (a : Addr) (n : Nat) (e : Nat → Quad) (z : Reg) (t : State)
    (h : s.load a n e z = .next t) :
    accessible s a n ∧ t = (s.setReg z (e (bigEndianValue (Memory.readBytes s.mem a n)))).advance := by
  unfold State.load raise at h
  split at h
  · cases h
  · rename_i hr
    obtain ⟨ha, rfl⟩ := memRead_cases _ _ _ _ hr
    cases h; exact ⟨ha, rfl⟩

theorem store_next (s : State) (a : Addr) (n : Nat) (x : Reg) (h : accessible s a n) :
    s.store a n x = .next ({ s with mem := Memory.writeBytes s.mem a (bigEndianBytes n (s.reg x)) } : State).advance := by
  simp [State.store, memWrite_ok s a n _ h]

theorem store_cases (s : State) (a : Addr) (n : Nat) (x : Reg) (t : State) (h : s.store a n x = .next t) :
    accessible s a n ∧
      t = ({ s with mem := Memory.writeBytes s.mem a (bigEndianBytes n (s.reg x)) } : State).advance := by
  unfold State.store raise at h
  split at h
  · cases h
  · rename_i hw
    obtain ⟨ha, rfl⟩ := memWrite_cases _ _ _ _ _ hw
    cases h; exact ⟨ha, rfl⟩

/-- The bytes a store leaves behind: its own, and all others as before. -/
theorem storedAt_writeBytes (s t : State) (a : Addr) (n : Nat) (v : Quad) (hn : n ≤ 2 ^ 64) (hm : Memory.wf s.mem)
    (ht : t.mem = Memory.writeBytes s.mem a (bigEndianBytes n v)) : storedAt s t a n v := by
  refine ⟨fun i hi => ?_, fun k hk => ?_⟩
  · rw [ht, Memory.byteAt_writeBytes _ _ _ _ hm.1 (by simpa using hn) (by simpa using hi)]
    simp [bigEndianBytes]
  · rw [ht, Memory.byteAt_writeBytes_other _ _ _ _ hm.1 (by simpa using hk)]

/-! ### Arithmetic with register pairs -/

theorem mulBy_cases (s : State) (w : BitVec 32) (a : Quad) (y z : Reg) (t : State) (h : s.mulBy w a y z = .next t) :
    ∃ z1, s.regPlus z 1 = some z1 ∧
      t = (((s.setFlags (mulFlags s.flags a (s.reg y))).setReg z (pat64 (a.toNat * (s.reg y).toNat % 2 ^ 64 : Nat))).setReg z1
        (pat64 (a.toNat * (s.reg y).toNat / 2 ^ 64 : Nat))).advance := by
  unfold State.mulBy raise at h
  split at h
  · cases h
  · rename_i z1 hz; cases h; exact ⟨z1, hz, rfl⟩

theorem divBy_cases (s : State) (w : BitVec 32) (a : Quad) (y z : Reg) (t : State) (h : s.divBy w a y z = .next t) :
    ∃ y1 z1 z2, s.regPlus y 1 = some y1 ∧ s.regPlus z 1 = some z1 ∧ s.regPlus z 2 = some z2 ∧ a.toNat ≠ 0 ∧
      ∃ q r : Nat, t = (((s.setReg z (pat64 (q % 2 ^ 64 : Nat))).setReg z1 (pat64 (q / 2 ^ 64 : Nat))).setReg z2
          (pat64 r)).advance ∧
        q = ((s.reg y1).toNat * 2 ^ 64 + (s.reg y).toNat) / a.toNat ∧
        r = ((s.reg y1).toNat * 2 ^ 64 + (s.reg y).toNat) % a.toNat := by
  unfold State.divBy raise at h
  split at h
  · rename_i y1 z1 z2 hy hz1 hz2
    simp only at h
    split at h
    · cases h
    · rename_i hd; cases h; exact ⟨y1, z1, z2, hy, hz1, hz2, hd, _, _, rfl, rfl, rfl⟩
  · cases h

theorem idivBy_cases (s : State) (w : BitVec 32) (a : Quad) (y z : Reg) (t : State) (h : s.idivBy w a y z = .next t) :
    ∃ z1, s.regPlus z 1 = some z1 ∧ a.toInt ≠ 0 ∧
      ¬ (idivQuotient (s.reg y).toInt a.toInt > 2 ^ 63 - 1 ∧ s.params.idivOverflow = .fault) ∧
      t = ((s.setReg z (pat64 (idivQuotient (s.reg y).toInt a.toInt))).setReg z1
        (pat64 (idivRemainder (s.reg y).toInt a.toInt))).advance := by
  unfold State.idivBy raise at h
  split at h
  · cases h
  · rename_i z1 hz
    simp only at h
    split at h
    · cases h
    · rename_i hd
      split at h
      · cases h
      · rename_i ho; cases h; exact ⟨z1, hz, hd, ho, rfl⟩

/-- A register number in range is taken as it is; one out of range wraps, if the policy says so. -/
theorem regPlus_some (s : State) (r : Reg) (k : Nat)
    (h : r.toNat + k ≤ 255 ∨ s.params.regnumOverflow = .wrap256) :
    s.regPlus r k = some (r + BitVec.ofNat 8 k) := by
  have e : BitVec.ofNat 8 (r.toNat + k) = r + BitVec.ofNat 8 k := by simp [BitVec.ofNat_add]
  unfold State.regPlus
  rw [e]
  split
  · rfl
  · rename_i hn
    rcases h with h | h
    · exact absurd h hn
    · simp [h]

/-- Where register `z + 1` can be named, `mulq` completes. -/
theorem mulBy_next (s : State) (w : BitVec 32) (a : Quad) (y z : Reg)
    (h : z.toNat + 1 ≤ 255 ∨ s.params.regnumOverflow = .wrap256) :
    s.mulBy w a y z =
      .next ((((s.setFlags (mulFlags s.flags a (s.reg y))).setReg z
        (pat64 (a.toNat * (s.reg y).toNat % 2 ^ 64 : Nat))).setReg (z + 1#8)
        (pat64 (a.toNat * (s.reg y).toNat / 2 ^ 64 : Nat))).advance) := by
  unfold State.mulBy
  rw [regPlus_some s z 1 h]

/-- Where the registers can be named and the divisor is not 0, `divq` completes. -/
theorem divBy_next (s : State) (w : BitVec 32) (a : Quad) (y z : Reg)
    (h : (y.toNat + 1 ≤ 255 ∧ z.toNat + 2 ≤ 255) ∨ s.params.regnumOverflow = .wrap256) (hd : a.toNat ≠ 0) (n : Nat)
    (hn : n = (s.reg (y + 1#8)).toNat * 2 ^ 64 + (s.reg y).toNat) :
    s.divBy w a y z =
      .next ((((s.setReg z (pat64 (n / a.toNat % 2 ^ 64 : Nat))).setReg (z + 1#8)
        (pat64 (n / a.toNat / 2 ^ 64 : Nat))).setReg (z + 2#8) (pat64 (n % a.toNat : Nat))).advance) := by
  have hy : y.toNat + 1 ≤ 255 ∨ s.params.regnumOverflow = .wrap256 := h.imp (fun h => h.1) id
  have hz1 : z.toNat + 1 ≤ 255 ∨ s.params.regnumOverflow = .wrap256 := h.imp (fun h => by omega) id
  have hz2 : z.toNat + 2 ≤ 255 ∨ s.params.regnumOverflow = .wrap256 := h.imp (fun h => h.2) id
  subst hn
  unfold State.divBy
  rw [regPlus_some s y 1 hy, regPlus_some s z 1 hz1, regPlus_some s z 2 hz2]
  simp only [if_neg hd]

/-- Where register `z + 1` can be named, the divisor is not 0 and the quotient fits or may wrap, `idivq` completes. -/
theorem idivBy_next (s : State) (w : BitVec 32) (a : Quad) (y z : Reg)
    (h : z.toNat + 1 ≤ 255 ∨ s.params.regnumOverflow = .wrap256) (hd : a.toInt ≠ 0)
    (ho : ¬ (idivQuotient (s.reg y).toInt a.toInt > 2 ^ 63 - 1 ∧ s.params.idivOverflow = .fault)) :
    s.idivBy w a y z =
      .next (((s.setReg z (pat64 (idivQuotient (s.reg y).toInt a.toInt))).setReg (z + 1#8)
        (pat64 (idivRemainder (s.reg y).toInt a.toInt))).advance) := by
  unfold State.idivBy
  rw [regPlus_some s z 1 h]
  simp only [if_neg hd, if_neg ho]

/-- A zero divisor faults, once the register numbers are in order (rules R108, R302). -/
theorem divBy_zero (s : State) (w : BitVec 32) (a : Quad) (y z : Reg)
    (h : (y.toNat + 1 ≤ 255 ∧ z.toNat + 2 ≤ 255) ∨ s.params.regnumOverflow = .wrap256) (ha : a.toNat = 0) :
    s.divBy w a y z = .fault (.divideByZero s.pc w) := by
  have hy : y.toNat + 1 ≤ 255 ∨ s.params.regnumOverflow = .wrap256 := h.imp (fun h => h.1) id
  have hz1 : z.toNat + 1 ≤ 255 ∨ s.params.regnumOverflow = .wrap256 := h.imp (fun h => by omega) id
  have hz2 : z.toNat + 2 ≤ 255 ∨ s.params.regnumOverflow = .wrap256 := h.imp (fun h => h.2) id
  unfold State.divBy raise
  rw [regPlus_some s y 1 hy, regPlus_some s z 1 hz1, regPlus_some s z 2 hz2]
  simp only [if_pos ha]

theorem idivBy_zero (s : State) (w : BitVec 32) (a : Quad) (y z : Reg)
    (h : z.toNat + 1 ≤ 255 ∨ s.params.regnumOverflow = .wrap256) (ha : a.toInt = 0) :
    s.idivBy w a y z = .fault (.divideByZero s.pc w) := by
  unfold State.idivBy raise
  rw [regPlus_some s z 1 h]
  simp only [if_pos ha]

theorem idivBy_overflow (s : State) (w : BitVec 32) (a : Quad) (y z : Reg)
    (h : z.toNat + 1 ≤ 255 ∨ s.params.regnumOverflow = .wrap256) (ha : a.toInt ≠ 0)
    (ho : idivQuotient (s.reg y).toInt a.toInt > 2 ^ 63 - 1 ∧ s.params.idivOverflow = .fault) :
    s.idivBy w a y z = .fault (.divideOverflow s.pc w) := by
  unfold State.idivBy raise
  rw [regPlus_some s z 1 h]
  simp only [if_neg ha, if_pos ho]

theorem regPlus_none (s : State) (r : Reg) (k : Nat) (h : 255 < r.toNat + k)
    (hp : s.params.regnumOverflow = .fault) : s.regPlus r k = none := by
  unfold State.regPlus
  rw [if_neg (by omega), hp]

/-- Whatever the policy, a register number that comes out is `r + k` modulo 256. -/
theorem regPlus_eq (s : State) (r r' : Reg) (k : Nat) (h : s.regPlus r k = some r') : r' = r + BitVec.ofNat 8 k := by
  have e : BitVec.ofNat 8 (r.toNat + k) = r + BitVec.ofNat 8 k := by simp [BitVec.ofNat_add]
  unfold State.regPlus at h
  rw [e] at h
  split at h
  · cases h; rfl
  · split at h <;> cases h; rfl

/-! ### Jumps, halt, the environment -/

theorem jumpIf_eq (s : State) (c : Bool) (rel : BitVec 26) :
    s.jumpIf c rel = .next (s.setPc (if c then s.relTarget rel else s.nextPc)) := by
  unfold State.jumpIf; cases c <;> rfl

theorem haltWith_cases (s : State) (c : Byte) (t : State) (h : s.haltWith c = .next t) :
    (s.params.haltExitCell = none ∧ t = { s with halted := some c }) ∨
    ∃ cell, s.params.haltExitCell = some cell ∧ accessible s cell 1 ∧
      t = { s with mem := Memory.writeBytes s.mem cell (bigEndianBytes 1 (c.setWidth 64)), halted := some c } := by
  unfold State.haltWith raise at h
  split at h
  · rename_i hn; cases h; exact .inl ⟨hn, rfl⟩
  · rename_i cell hc
    split at h
    · cases h
    · rename_i hw
      obtain ⟨ha, rfl⟩ := memWrite_cases _ _ _ _ _ hw
      cases h; exact .inr ⟨cell, hc, ha, rfl⟩

theorem request_ok (s : State) (p : Addr) (h8 : p.toNat % 8 = 0)
    (hv : ∀ i, i < 24 → inMap s.params.memValid (Memory.cell p i) = true) :
    s.request p = .ok {
      fd := (BitVec.ofNat 32 (bigEndianValue (Memory.readBytes s.mem p 4))).toInt
      buf := pat64 (bigEndianValue (Memory.readBytes s.mem (pat64 (p.toNat + 8)) 8))
      nbyte := bigEndianValue (Memory.readBytes s.mem (pat64 (p.toNat + 16)) 8) } := by
  have hv' := (valid_iff s p 24).2 hv
  simp [State.request, h8, blockSize, hv']

/-- Horner's form of the big-endian value, with a start value. -/
theorem foldl_bigEndian (bs : List Byte) (v : Nat) :
    bs.foldl (fun v b => v * 256 + b.toNat) v = v * 256 ^ bs.length + bigEndianValue bs := by
  induction bs generalizing v with
  | nil => simp [bigEndianValue]
  | cons b bs ih =>
    have e : bigEndianValue (b :: bs) = (0 * 256 + b.toNat) * 256 ^ bs.length + bigEndianValue bs := by
      rw [← ih]; rfl
    rw [List.foldl_cons, ih, e, List.length_cons]
    ring

theorem bigEndianValue_map (f : Nat → Byte) (n : Nat) :
    bigEndianValue ((List.range n).map f) = ((List.range n).map fun i => (f i).toNat * 256 ^ (n - 1 - i)).sum := by
  induction n generalizing f with
  | zero => rfl
  | succ n ih =>
    rw [List.range_succ_eq_map, List.map_cons, List.map_map, bigEndianValue, List.foldl_cons, foldl_bigEndian, ih]
    simp only [List.length_map, List.length_range, Function.comp_def, List.map_cons, List.map_map, List.sum_cons]
    congr 1
    · simp
    · congr 1
      refine List.map_congr_left fun i hi => ?_
      congr 2
      simp only [List.mem_range] at hi
      omega

/-- The value the loads and the services read is the sum of rule R41. -/
theorem bigEndianValue_readBytes (m : Memory) (a : Addr) (n : Nat) :
    bigEndianValue (Memory.readBytes m a n) = datum m a n :=
  bigEndianValue_map _ n

/-- A readable block is read field by field. -/
theorem request_blockAt (s : State) (p : Addr) (h : blockReadable s p) : s.request p = .ok (blockAt s p) := by
  have e : ∀ k : Nat, pat64 ((p.toNat : Int) + k) = p + BitVec.ofNat 64 k := by
    intro k
    apply BitVec.eq_of_toNat_eq
    rw [← Nat.cast_add, pat64, BitVec.ofInt_natCast]
    simp [BitVec.toNat_add]
  have e8 : pat64 ((p.toNat : Int) + 8) = p + 8#64 := e 8
  have e16 : pat64 ((p.toNat : Int) + 16) = p + 16#64 := e 16
  rw [request_ok s p h.1 h.2, e8, e16]
  simp only [bigEndianValue_readBytes, blockAt]

/-- If a block is read, it is readable and read field by field. -/
theorem request_cases (s : State) (p : Addr) (req : Request) (h : s.request p = .ok req) :
    blockReadable s p ∧ req = blockAt s p := by
  have hb : blockReadable s p := by
    unfold State.request at h
    split at h
    · cases h
    · rename_i h8
      split at h
      · rename_i hv; exact ⟨by omega, (valid_iff ..).1 hv⟩
      · cases h
  rw [request_blockAt s p hb] at h
  cases h
  exact ⟨hb, rfl⟩

/-- `firstInvalid` answers none exactly where all bytes exist. -/
theorem firstInvalid_none (s : State) (a : Addr) (n : Nat) :
    s.firstInvalid a n = none ↔ ∀ i, i < n → inMap s.params.memValid (Memory.cell a i) = true := by
  simp [State.firstInvalid, List.find?_eq_none]

/-- The first missing byte is what `firstInvalid` answers, where it is among the `n` bytes. -/
theorem firstInvalid_some (s : State) (a : Addr) (n i : Nat) (hi : i < n) (h : firstMissing s a i) :
    s.firstInvalid a n = some (a + BitVec.ofNat 64 i) := by
  have hf : (List.range n).find? (fun i => !inMap s.params.memValid (Memory.cell a i)) = some i := by
    rw [List.find?_range_eq_some]
    exact ⟨by simp [h.1], by simpa using hi, fun j hj => by simp [h.2 j hj]⟩
  rw [State.firstInvalid, hf, Option.map_some, Option.some.injEq]
  apply BitVec.eq_of_toNat_eq
  simp [Memory.cell, BitVec.toNat_add]

/-! The services, with the request a variable: at a concrete block the checks would compute with its `nbyte`. -/

theorem serveRead_waits (s : State) (req : Request) (z : Reg) (h : s.readAnswer req = none) :
    s.serveRead req z = .next s := by
  simp only [State.serveRead, h]

theorem serveRead_failed (s : State) (req : Request) (z : Reg) (e : Errno) (h : s.readAnswer req = some (.failed e)) :
    s.serveRead req z = .next ((s.tookReadAnswer.setReg z (errnoResult e)).advance) := by
  simp only [State.serveRead, h]

theorem serveRead_delivered (s : State) (req : Request) (z : Reg) (bytes : List Byte)
    (h : s.readAnswer req = some (.delivered bytes)) (hv : bytesExist s req.buf (min req.nbyte bytes.length)) :
    s.serveRead req z = .next (({ s.tookReadAnswer with
      mem := Memory.writeBytes s.mem req.buf (bytes.take req.nbyte) }.setReg z
        (pat64 (min req.nbyte bytes.length : Nat))).advance) := by
  have hf := (firstInvalid_none s req.buf _).2 hv
  simp only [State.serveRead, h, List.length_take, hf]

theorem serveRead_stops (s : State) (req : Request) (z : Reg) (bytes : List Byte) (i : Nat)
    (h : s.readAnswer req = some (.delivered bytes)) (hi : i < min req.nbyte bytes.length)
    (hm : firstMissing s req.buf i) :
    s.serveRead req z = .fault (.memoryAccessFault (req.buf + BitVec.ofNat 64 i) 1 .write) := by
  have hf := firstInvalid_some s req.buf _ i hi hm
  simp only [State.serveRead, h, List.length_take, hf, raise]

theorem serveWrite_waits (s : State) (req : Request) (z : Reg) (hv : bytesExist s req.buf req.nbyte)
    (h : s.writeAnswer req (Memory.readBytes s.mem req.buf req.nbyte) = none) : s.serveWrite req z = .next s := by
  simp only [State.serveWrite, (firstInvalid_none s req.buf _).2 hv, h]

theorem serveWrite_failed (s : State) (req : Request) (z : Reg) (e : Errno) (hv : bytesExist s req.buf req.nbyte)
    (h : s.writeAnswer req (Memory.readBytes s.mem req.buf req.nbyte) = some (.failed e)) :
    s.serveWrite req z = .next ((s.tookWriteAnswer.setReg z (errnoResult e)).advance) := by
  simp only [State.serveWrite, (firstInvalid_none s req.buf _).2 hv, h]

theorem serveWrite_accepted (s : State) (req : Request) (z : Reg) (count : Nat) (hv : bytesExist s req.buf req.nbyte)
    (h : s.writeAnswer req (Memory.readBytes s.mem req.buf req.nbyte) = some (.accepted count)) :
    s.serveWrite req z = .next (({ s.tookWriteAnswer with
      written := s.written ++ [WriteRecord.mk req.fd (Memory.readBytes s.mem req.buf (min count req.nbyte))] }.setReg z
        (pat64 (min count req.nbyte : Nat))).advance) := by
  simp only [State.serveWrite, (firstInvalid_none s req.buf _).2 hv, h]

theorem serveWrite_stops (s : State) (req : Request) (z : Reg) (i : Nat) (hi : i < req.nbyte)
    (hm : firstMissing s req.buf i) :
    s.serveWrite req z = .fault (.memoryAccessFault (req.buf + BitVec.ofNat 64 i) 1 .read) := by
  simp only [State.serveWrite, firstInvalid_some s req.buf _ i hi hm, raise]

theorem serveRead_cases (s : State) (req : Request) (z : Reg) (t : State) (h : s.serveRead req z = .next t) :
    (s.readAnswer req = none ∧ t = s) ∨
    (∃ e, s.readAnswer req = some (.failed e) ∧ t = (s.tookReadAnswer.setReg z (errnoResult e)).advance) ∨
    (∃ bytes bs, s.readAnswer req = some (.delivered bytes) ∧ bs = bytes.take req.nbyte ∧
      (∀ i, i < bs.length → inMap s.params.memValid (Memory.cell req.buf i) = true) ∧
      t = (({ s.tookReadAnswer with mem := Memory.writeBytes s.mem req.buf bs }.setReg z (pat64 bs.length)).advance)) := by
  unfold State.serveRead raise at h
  split at h
  · rename_i ha; cases h; exact .inl ⟨ha, rfl⟩
  · rename_i e ha; cases h; exact .inr (.inl ⟨e, ha, rfl⟩)
  · rename_i bytes ha
    simp only at h
    split at h
    · cases h
    · rename_i hf
      cases h
      exact .inr (.inr ⟨bytes, _, ha, rfl, (firstInvalid_none ..).1 hf, rfl⟩)

theorem serveWrite_cases (s : State) (req : Request) (z : Reg) (t : State) (h : s.serveWrite req z = .next t) :
    (∀ i, i < req.nbyte → inMap s.params.memValid (Memory.cell req.buf i) = true) ∧
    ((s.writeAnswer req (Memory.readBytes s.mem req.buf req.nbyte) = none ∧ t = s) ∨
    (∃ e, s.writeAnswer req (Memory.readBytes s.mem req.buf req.nbyte) = some (.failed e) ∧
      t = (s.tookWriteAnswer.setReg z (errnoResult e)).advance) ∨
    (∃ count k, s.writeAnswer req (Memory.readBytes s.mem req.buf req.nbyte) = some (.accepted count) ∧
      k = min count req.nbyte ∧
      t = (({ s.tookWriteAnswer with
          written := s.written ++ [WriteRecord.mk req.fd (Memory.readBytes s.mem req.buf k)] }.setReg z
        (pat64 k)).advance))) := by
  unfold State.serveWrite raise at h
  split at h
  · cases h
  · rename_i hf
    refine ⟨(firstInvalid_none ..).1 hf, ?_⟩
    split at h
    · rename_i ha; cases h; exact .inl ⟨ha, rfl⟩
    · rename_i e ha; cases h; exact .inr (.inl ⟨e, ha, rfl⟩)
    · rename_i c ha; cases h; exact .inr (.inr ⟨c, _, ha, rfl, rfl⟩)

/-- If a `trap` answers a state, it was served as `read` or as `write`, with a block in order. -/
theorem execTrap_cases (x y z : Reg) (s t : State) (h : execTrap x y z s = .next t) :
    ∃ req, s.request (s.reg y) = .ok req ∧
      ((s.params.trapTable.lookup (s.reg x).toNat = some .read ∧ s.serveRead req z = .next t) ∨
       (s.params.trapTable.lookup (s.reg x).toNat = some .write ∧ s.serveWrite req z = .next t)) := by
  unfold execTrap raise at h
  split at h
  · cases h
  · cases h
  · rename_i hl
    split at h
    · cases h
    · rename_i req hr; exact ⟨req, hr, .inl ⟨hl, h⟩⟩
  · rename_i hl
    split at h
    · cases h
    · rename_i req hr; exact ⟨req, hr, .inr ⟨hl, h⟩⟩

theorem execJmpReg_cases (x y : Reg) (s t : State) (h : execJmpReg x y s = .next t) :
    t = (s.setReg y s.nextPc).setPc (s.reg x) := by
  unfold execJmpReg at h
  split at h <;> cases h; rfl

theorem execGetc_cases (x : Reg) (s t : State) (h : execGetc x s = .next t) :
    (s.input = [] ∧ t = s) ∨
    ∃ b rest, s.input = b :: rest ∧
      t = ({ s.tookGetcBits with input := rest }.setReg x (s.getcValue x b)).advance := by
  unfold execGetc at h
  split at h
  · rename_i hi; cases h; exact .inl ⟨hi, rfl⟩
  · rename_i b rest hi; cases h; exact .inr ⟨b, rest, hi, rfl⟩

/-! ### Registers after several writes -/

/-- The register file after one more register write: the last write comes first in the list. -/
theorem registersAfter_cons (s u t : State) (z : Reg) (v : Quad) (ws : List (Reg × Quad)) (hu : registersAfter s u ws)
    (h : ∀ r, t.reg r = (u.setReg z v).reg r) : registersAfter s t ((z, v) :: ws) := by
  intro r
  rw [h, State.reg_setReg]
  by_cases hr : r = 0#8
  · subst hr; simp
  · by_cases hz : r = z
    · subst hz; simp [hr]
    · have hb : (r == z) = false := by simp [hz]
      rw [hu r]
      simp [hr, hz, List.lookup, hb]

/-- The register file after no register write. -/
theorem registersAfter_nil (s t : State) (h : ∀ r, t.reg r = s.reg r) : registersAfter s t [] := by
  intro r
  rw [h]
  by_cases hr : r = 0#8
  · subst hr; simp
  · simp [hr]

/-- The register file after one register write. -/
theorem registersAfter_one (s t : State) (z : Reg) (v : Quad) (h : ∀ r, t.reg r = (s.setReg z v).reg r) :
    registersAfter s t [(z, v)] :=
  registersAfter_cons s s t z v [] (registersAfter_nil s s fun _ => rfl) h

end Sys2Proof.Machine
end

