-- ==== Sys2Proof/Laws/Encoding.lean ====
section
/-! SUPPORT. How immediates are cut into operand bytes and put together again (rules R70 to R72, R78). -/

namespace Sys2Proof

/-- The two bytes of a 16-bit immediate put together again. -/
theorem join_imm16 (v : BitVec 16) : v.extractLsb' 8 8 ++ v.extractLsb' 0 8 = v := by
  apply BitVec.eq_of_getLsbD_eq
  intro i hi
  simp only [BitVec.getLsbD_append, BitVec.getLsbD_extractLsb']
  by_cases h1 : i < 8
  · simp [h1]
  · have h2 : i - 8 < 8 := by omega
    have h3 : 8 + (i - 8) = i := by omega
    simp [h1, h2, h3]

/-- The three bytes of a well-formed jump offset put together again. -/
theorem join_rel (rel : BitVec 26) (h : relWellFormed rel = true) :
    rel.extractLsb' 18 8 ++ rel.extractLsb' 10 8 ++ rel.extractLsb' 2 8 ++ 0#2 = rel := by
  simp only [relWellFormed, beq_iff_eq] at h
  apply BitVec.eq_of_getLsbD_eq
  intro i hi
  have h0 : (rel.extractLsb' 0 2).getLsbD i = false := by rw [h]; simp
  simp only [BitVec.getLsbD_extractLsb', Nat.zero_add] at h0
  simp only [BitVec.getLsbD_append, BitVec.getLsbD_extractLsb']
  by_cases h1 : i < 2
  · simp only [h1, decide_true, Bool.true_and] at h0
    simp [h1, h0]
  · by_cases h2 : i < 10
    · have a : i - 2 < 8 := by omega
      have e : 2 + (i - 2) = i := by omega
      simp [h1, a, e]
    · by_cases h3 : i < 18
      · have a : ¬ (i - 2 < 8) := by omega
        have b : i - 2 - 8 < 8 := by omega
        have e : 10 + (i - 2 - 8) = i := by omega
        simp only [h1, a, b, e, decide_true, Bool.true_and, if_false, if_true]
      · have a : ¬ (i - 2 < 8) := by omega
        have b : ¬ (i - 2 - 8 < 8) := by omega
        have c : i - 2 - 8 - 8 < 8 := by omega
        have e : 18 + (i - 2 - 8 - 8) = i := by omega
        simp only [h1, a, b, c, e, decide_true, Bool.true_and, if_false]

/-- Byte X of an immediate `X : Y`. -/
theorem imm16_byte_x (x y : Byte) : (x ++ y).extractLsb' 8 8 = x := by
  apply BitVec.eq_of_getLsbD_eq
  intro i hi
  have a : ¬ (8 + i < 8) := by omega
  have e : 8 + i - 8 = i := by omega
  simp only [BitVec.getLsbD_extractLsb', BitVec.getLsbD_append, hi, a, e, decide_true, Bool.true_and, if_false]

/-- Byte Y of an immediate `X : Y`. -/
theorem imm16_byte_y (x y : Byte) : (x ++ y).extractLsb' 0 8 = y := by
  apply BitVec.eq_of_getLsbD_eq
  intro i hi
  have e : 0 + i = i := by omega
  simp only [BitVec.getLsbD_extractLsb', BitVec.getLsbD_append, hi, decide_true, Bool.true_and, if_true, e]

/-- Byte X of a jump offset `4 * (X : Y : Z)`. -/
theorem rel_byte_x (x y z : Byte) : (x ++ y ++ z ++ 0#2).extractLsb' 18 8 = x := by
  apply BitVec.eq_of_getLsbD_eq
  intro i hi
  have a : ¬ (18 + i < 2) := by omega
  have b : ¬ (18 + i - 2 < 8) := by omega
  have c : ¬ (18 + i - 2 - 8 < 8) := by omega
  have e : 18 + i - 2 - 8 - 8 = i := by omega
  simp only [BitVec.getLsbD_extractLsb', BitVec.getLsbD_append, hi, a, b, c, e, decide_true, Bool.true_and, if_false]

/-- Byte Y of a jump offset. -/
theorem rel_byte_y (x y z : Byte) : (x ++ y ++ z ++ 0#2).extractLsb' 10 8 = y := by
  apply BitVec.eq_of_getLsbD_eq
  intro i hi
  have a : ¬ (10 + i < 2) := by omega
  have b : ¬ (10 + i - 2 < 8) := by omega
  have e : 10 + i - 2 - 8 = i := by omega
  simp only [BitVec.getLsbD_extractLsb', BitVec.getLsbD_append, hi, a, b, decide_true, Bool.true_and, if_false, if_true, e]

/-- Byte Z of a jump offset. -/
theorem rel_byte_z (x y z : Byte) : (x ++ y ++ z ++ 0#2).extractLsb' 2 8 = z := by
  apply BitVec.eq_of_getLsbD_eq
  intro i hi
  have a : ¬ (2 + i < 2) := by omega
  have e : 2 + i - 2 = i := by omega
  simp only [BitVec.getLsbD_extractLsb', BitVec.getLsbD_append, hi, a, decide_true, Bool.true_and, if_false, if_true, e]

/-- A jump offset put together from its bytes is well formed. -/
theorem rel_wellFormed (x y z : Byte) : relWellFormed (x ++ y ++ z ++ 0#2) = true := by
  simp only [relWellFormed, beq_iff_eq]
  apply BitVec.eq_of_getLsbD_eq
  intro i hi
  have a : 0 + i < 2 := by omega
  simp only [BitVec.getLsbD_extractLsb', BitVec.getLsbD_append, hi, a, decide_true, Bool.true_and, if_true]
  simp

end Sys2Proof
end

