-- ==== Sys2Proof/Laws/PerInstr.lean ====
section
/-! SUPPORT. A family of statements, one lemma per instruction: the encoder writes every operand byte that the instruction's
format does not use as 0x00 (rule R81: "an assembler writes them as 0x00"). -/

namespace Sys2Proof.Laws

/-- The encoded instruction's unused operand bytes are 0. -/
def CanonicalUnused.Statement (i : Instr) : Prop :=
  unusedBytesZero i i.operandBytes.1 i.operandBytes.2.1 i.operandBytes.2.2 = true

theorem CanonicalUnused.haltReg (x : Reg) : CanonicalUnused.Statement (.haltReg x) := rfl
theorem CanonicalUnused.trap (x : Reg) (y : Reg) (z : Reg) : CanonicalUnused.Statement (.trap x y z) := rfl
theorem CanonicalUnused.haltImm (imm : Byte) : CanonicalUnused.Statement (.haltImm imm) := rfl
theorem CanonicalUnused.movqLoadIndexed (base : Reg) (offset : Reg) (z : Reg) : CanonicalUnused.Statement (.movqLoadIndexed base offset z) := rfl
theorem CanonicalUnused.movzlqIndexed (base : Reg) (offset : Reg) (z : Reg) : CanonicalUnused.Statement (.movzlqIndexed base offset z) := rfl
theorem CanonicalUnused.movzwqIndexed (base : Reg) (offset : Reg) (z : Reg) : CanonicalUnused.Statement (.movzwqIndexed base offset z) := rfl
theorem CanonicalUnused.movzbqIndexed (base : Reg) (offset : Reg) (z : Reg) : CanonicalUnused.Statement (.movzbqIndexed base offset z) := rfl
theorem CanonicalUnused.movslqIndexed (base : Reg) (offset : Reg) (z : Reg) : CanonicalUnused.Statement (.movslqIndexed base offset z) := rfl
theorem CanonicalUnused.movswqIndexed (base : Reg) (offset : Reg) (z : Reg) : CanonicalUnused.Statement (.movswqIndexed base offset z) := rfl
theorem CanonicalUnused.movsbqIndexed (base : Reg) (offset : Reg) (z : Reg) : CanonicalUnused.Statement (.movsbqIndexed base offset z) := rfl
theorem CanonicalUnused.movqLoadDisp (disp : Byte) (base : Reg) (z : Reg) : CanonicalUnused.Statement (.movqLoadDisp disp base z) := rfl
theorem CanonicalUnused.movzlqDisp (disp : Byte) (base : Reg) (z : Reg) : CanonicalUnused.Statement (.movzlqDisp disp base z) := rfl
theorem CanonicalUnused.movzwqDisp (disp : Byte) (base : Reg) (z : Reg) : CanonicalUnused.Statement (.movzwqDisp disp base z) := rfl
theorem CanonicalUnused.movzbqDisp (disp : Byte) (base : Reg) (z : Reg) : CanonicalUnused.Statement (.movzbqDisp disp base z) := rfl
theorem CanonicalUnused.movslqDisp (disp : Byte) (base : Reg) (z : Reg) : CanonicalUnused.Statement (.movslqDisp disp base z) := rfl
theorem CanonicalUnused.movswqDisp (disp : Byte) (base : Reg) (z : Reg) : CanonicalUnused.Statement (.movswqDisp disp base z) := rfl
theorem CanonicalUnused.movsbqDisp (disp : Byte) (base : Reg) (z : Reg) : CanonicalUnused.Statement (.movsbqDisp disp base z) := rfl
theorem CanonicalUnused.movqStoreIndexed (x : Reg) (base : Reg) (offset : Reg) : CanonicalUnused.Statement (.movqStoreIndexed x base offset) := rfl
theorem CanonicalUnused.movlIndexed (x : Reg) (base : Reg) (offset : Reg) : CanonicalUnused.Statement (.movlIndexed x base offset) := rfl
theorem CanonicalUnused.movwIndexed (x : Reg) (base : Reg) (offset : Reg) : CanonicalUnused.Statement (.movwIndexed x base offset) := rfl
theorem CanonicalUnused.movbIndexed (x : Reg) (base : Reg) (offset : Reg) : CanonicalUnused.Statement (.movbIndexed x base offset) := rfl
theorem CanonicalUnused.movqStoreDisp (x : Reg) (disp : Byte) (base : Reg) : CanonicalUnused.Statement (.movqStoreDisp x disp base) := rfl
theorem CanonicalUnused.movlDisp (x : Reg) (disp : Byte) (base : Reg) : CanonicalUnused.Statement (.movlDisp x disp base) := rfl
theorem CanonicalUnused.movwDisp (x : Reg) (disp : Byte) (base : Reg) : CanonicalUnused.Statement (.movwDisp x disp base) := rfl
theorem CanonicalUnused.movbDisp (x : Reg) (disp : Byte) (base : Reg) : CanonicalUnused.Statement (.movbDisp x disp base) := rfl
theorem CanonicalUnused.addqReg (x : Reg) (y : Reg) (z : Reg) : CanonicalUnused.Statement (.addqReg x y z) := rfl
theorem CanonicalUnused.subqReg (x : Reg) (y : Reg) (z : Reg) : CanonicalUnused.Statement (.subqReg x y z) := rfl
theorem CanonicalUnused.mulqReg (x : Reg) (y : Reg) (z : Reg) : CanonicalUnused.Statement (.mulqReg x y z) := rfl
theorem CanonicalUnused.divqReg (x : Reg) (y : Reg) (z : Reg) : CanonicalUnused.Statement (.divqReg x y z) := rfl
theorem CanonicalUnused.imulqReg (x : Reg) (y : Reg) (z : Reg) : CanonicalUnused.Statement (.imulqReg x y z) := rfl
theorem CanonicalUnused.idivqReg (x : Reg) (y : Reg) (z : Reg) : CanonicalUnused.Statement (.idivqReg x y z) := rfl
theorem CanonicalUnused.addqImm (imm : Byte) (y : Reg) (z : Reg) : CanonicalUnused.Statement (.addqImm imm y z) := rfl
theorem CanonicalUnused.subqImm (imm : Byte) (y : Reg) (z : Reg) : CanonicalUnused.Statement (.subqImm imm y z) := rfl
theorem CanonicalUnused.mulqImm (imm : Byte) (y : Reg) (z : Reg) : CanonicalUnused.Statement (.mulqImm imm y z) := rfl
theorem CanonicalUnused.divqImm (imm : Byte) (y : Reg) (z : Reg) : CanonicalUnused.Statement (.divqImm imm y z) := rfl
theorem CanonicalUnused.imulqImm (imm : Byte) (y : Reg) (z : Reg) : CanonicalUnused.Statement (.imulqImm imm y z) := rfl
theorem CanonicalUnused.idivqImm (imm : Byte) (y : Reg) (z : Reg) : CanonicalUnused.Statement (.idivqImm imm y z) := rfl
theorem CanonicalUnused.jmpReg (x : Reg) (y : Reg) : CanonicalUnused.Statement (.jmpReg x y) := rfl
theorem CanonicalUnused.jmpRel (rel : BitVec 26) : CanonicalUnused.Statement (.jmpRel rel) := rfl
theorem CanonicalUnused.je (rel : BitVec 26) : CanonicalUnused.Statement (.je rel) := rfl
theorem CanonicalUnused.jne (rel : BitVec 26) : CanonicalUnused.Statement (.jne rel) := rfl
theorem CanonicalUnused.jl (rel : BitVec 26) : CanonicalUnused.Statement (.jl rel) := rfl
theorem CanonicalUnused.jge (rel : BitVec 26) : CanonicalUnused.Statement (.jge rel) := rfl
theorem CanonicalUnused.jle (rel : BitVec 26) : CanonicalUnused.Statement (.jle rel) := rfl
theorem CanonicalUnused.jg (rel : BitVec 26) : CanonicalUnused.Statement (.jg rel) := rfl
theorem CanonicalUnused.jb (rel : BitVec 26) : CanonicalUnused.Statement (.jb rel) := rfl
theorem CanonicalUnused.jae (rel : BitVec 26) : CanonicalUnused.Statement (.jae rel) := rfl
theorem CanonicalUnused.jna (rel : BitVec 26) : CanonicalUnused.Statement (.jna rel) := rfl
theorem CanonicalUnused.ja (rel : BitVec 26) : CanonicalUnused.Statement (.ja rel) := rfl
theorem CanonicalUnused.orq (x : Reg) (y : Reg) (z : Reg) : CanonicalUnused.Statement (.orq x y z) := rfl
theorem CanonicalUnused.andq (x : Reg) (y : Reg) (z : Reg) : CanonicalUnused.Statement (.andq x y z) := rfl
theorem CanonicalUnused.shlqReg (x : Reg) (y : Reg) (z : Reg) : CanonicalUnused.Statement (.shlqReg x y z) := rfl
theorem CanonicalUnused.shrqReg (x : Reg) (y : Reg) (z : Reg) : CanonicalUnused.Statement (.shrqReg x y z) := rfl
theorem CanonicalUnused.sarqReg (x : Reg) (y : Reg) (z : Reg) : CanonicalUnused.Statement (.sarqReg x y z) := rfl
theorem CanonicalUnused.ldzwq (imm : BitVec 16) (z : Reg) : CanonicalUnused.Statement (.ldzwq imm z) := rfl
theorem CanonicalUnused.ldsq (imm : BitVec 16) (z : Reg) : CanonicalUnused.Statement (.ldsq imm z) := rfl
theorem CanonicalUnused.shlqImm (imm : Byte) (y : Reg) (z : Reg) : CanonicalUnused.Statement (.shlqImm imm y z) := rfl
theorem CanonicalUnused.shrqImm (imm : Byte) (y : Reg) (z : Reg) : CanonicalUnused.Statement (.shrqImm imm y z) := rfl
theorem CanonicalUnused.sarqImm (imm : Byte) (y : Reg) (z : Reg) : CanonicalUnused.Statement (.sarqImm imm y z) := rfl
theorem CanonicalUnused.shldwq (imm : BitVec 16) (z : Reg) : CanonicalUnused.Statement (.shldwq imm z) := rfl
theorem CanonicalUnused.notq (x : Reg) (y : Reg) : CanonicalUnused.Statement (.notq x y) := rfl
theorem CanonicalUnused.getc (x : Reg) : CanonicalUnused.Statement (.getc x) := rfl
theorem CanonicalUnused.putcReg (x : Reg) : CanonicalUnused.Statement (.putcReg x) := rfl
theorem CanonicalUnused.putcImm (imm : Byte) : CanonicalUnused.Statement (.putcImm imm) := rfl
theorem CanonicalUnused.movqLoadScaled2 (base : Reg) (offset : Reg) (z : Reg) : CanonicalUnused.Statement (.movqLoadScaled2 base offset z) := rfl
theorem CanonicalUnused.movzlqScaled2 (base : Reg) (offset : Reg) (z : Reg) : CanonicalUnused.Statement (.movzlqScaled2 base offset z) := rfl
theorem CanonicalUnused.movzwqScaled2 (base : Reg) (offset : Reg) (z : Reg) : CanonicalUnused.Statement (.movzwqScaled2 base offset z) := rfl
theorem CanonicalUnused.movzbqScaled2 (base : Reg) (offset : Reg) (z : Reg) : CanonicalUnused.Statement (.movzbqScaled2 base offset z) := rfl
theorem CanonicalUnused.movslqScaled2 (base : Reg) (offset : Reg) (z : Reg) : CanonicalUnused.Statement (.movslqScaled2 base offset z) := rfl
theorem CanonicalUnused.movswqScaled2 (base : Reg) (offset : Reg) (z : Reg) : CanonicalUnused.Statement (.movswqScaled2 base offset z) := rfl
theorem CanonicalUnused.movsbqScaled2 (base : Reg) (offset : Reg) (z : Reg) : CanonicalUnused.Statement (.movsbqScaled2 base offset z) := rfl
theorem CanonicalUnused.movqStoreScaled2 (x : Reg) (base : Reg) (offset : Reg) : CanonicalUnused.Statement (.movqStoreScaled2 x base offset) := rfl
theorem CanonicalUnused.movlScaled2 (x : Reg) (base : Reg) (offset : Reg) : CanonicalUnused.Statement (.movlScaled2 x base offset) := rfl
theorem CanonicalUnused.movwScaled2 (x : Reg) (base : Reg) (offset : Reg) : CanonicalUnused.Statement (.movwScaled2 x base offset) := rfl
theorem CanonicalUnused.movbScaled2 (x : Reg) (base : Reg) (offset : Reg) : CanonicalUnused.Statement (.movbScaled2 x base offset) := rfl
theorem CanonicalUnused.movqLoadScaled4 (base : Reg) (offset : Reg) (z : Reg) : CanonicalUnused.Statement (.movqLoadScaled4 base offset z) := rfl
theorem CanonicalUnused.movzlqScaled4 (base : Reg) (offset : Reg) (z : Reg) : CanonicalUnused.Statement (.movzlqScaled4 base offset z) := rfl
theorem CanonicalUnused.movzwqScaled4 (base : Reg) (offset : Reg) (z : Reg) : CanonicalUnused.Statement (.movzwqScaled4 base offset z) := rfl
theorem CanonicalUnused.movzbqScaled4 (base : Reg) (offset : Reg) (z : Reg) : CanonicalUnused.Statement (.movzbqScaled4 base offset z) := rfl
theorem CanonicalUnused.movslqScaled4 (base : Reg) (offset : Reg) (z : Reg) : CanonicalUnused.Statement (.movslqScaled4 base offset z) := rfl
theorem CanonicalUnused.movswqScaled4 (base : Reg) (offset : Reg) (z : Reg) : CanonicalUnused.Statement (.movswqScaled4 base offset z) := rfl
theorem CanonicalUnused.movsbqScaled4 (base : Reg) (offset : Reg) (z : Reg) : CanonicalUnused.Statement (.movsbqScaled4 base offset z) := rfl
theorem CanonicalUnused.movqStoreScaled4 (x : Reg) (base : Reg) (offset : Reg) : CanonicalUnused.Statement (.movqStoreScaled4 x base offset) := rfl
theorem CanonicalUnused.movlScaled4 (x : Reg) (base : Reg) (offset : Reg) : CanonicalUnused.Statement (.movlScaled4 x base offset) := rfl
theorem CanonicalUnused.movwScaled4 (x : Reg) (base : Reg) (offset : Reg) : CanonicalUnused.Statement (.movwScaled4 x base offset) := rfl
theorem CanonicalUnused.movbScaled4 (x : Reg) (base : Reg) (offset : Reg) : CanonicalUnused.Statement (.movbScaled4 x base offset) := rfl
theorem CanonicalUnused.movqLoadScaled8 (base : Reg) (offset : Reg) (z : Reg) : CanonicalUnused.Statement (.movqLoadScaled8 base offset z) := rfl
theorem CanonicalUnused.movzlqScaled8 (base : Reg) (offset : Reg) (z : Reg) : CanonicalUnused.Statement (.movzlqScaled8 base offset z) := rfl
theorem CanonicalUnused.movzwqScaled8 (base : Reg) (offset : Reg) (z : Reg) : CanonicalUnused.Statement (.movzwqScaled8 base offset z) := rfl
theorem CanonicalUnused.movzbqScaled8 (base : Reg) (offset : Reg) (z : Reg) : CanonicalUnused.Statement (.movzbqScaled8 base offset z) := rfl
theorem CanonicalUnused.movslqScaled8 (base : Reg) (offset : Reg) (z : Reg) : CanonicalUnused.Statement (.movslqScaled8 base offset z) := rfl
theorem CanonicalUnused.movswqScaled8 (base : Reg) (offset : Reg) (z : Reg) : CanonicalUnused.Statement (.movswqScaled8 base offset z) := rfl
theorem CanonicalUnused.movsbqScaled8 (base : Reg) (offset : Reg) (z : Reg) : CanonicalUnused.Statement (.movsbqScaled8 base offset z) := rfl
theorem CanonicalUnused.movqStoreScaled8 (x : Reg) (base : Reg) (offset : Reg) : CanonicalUnused.Statement (.movqStoreScaled8 x base offset) := rfl
theorem CanonicalUnused.movlScaled8 (x : Reg) (base : Reg) (offset : Reg) : CanonicalUnused.Statement (.movlScaled8 x base offset) := rfl
theorem CanonicalUnused.movwScaled8 (x : Reg) (base : Reg) (offset : Reg) : CanonicalUnused.Statement (.movwScaled8 x base offset) := rfl
theorem CanonicalUnused.movbScaled8 (x : Reg) (base : Reg) (offset : Reg) : CanonicalUnused.Statement (.movbScaled8 x base offset) := rfl
theorem CanonicalUnused.nop : CanonicalUnused.Statement .nop := rfl

end Sys2Proof.Laws
end

