-- ==== Sys2Proof/Laws/Step.lean ====
section
/-! SUPPORT. What a step can do, said once: the fetch and its checks, the three ways a step answers, and for an executed
instruction what becomes of memory, parameters and devices. -/

namespace Sys2Proof.Machine

/-! ### Fetch -/

/-- The fetch succeeds where `pc` is aligned and its four bytes exist. -/
theorem fetchBytes_ok (s : State) (h4 : s.pc.toNat % 4 = 0)
    (hv : ∀ i, i < 4 → inMap s.params.memValid (Memory.cell s.pc i) = true) :
    s.fetchBytes = .ok (Memory.readBytes s.mem s.pc 4) := by
  have hv' := (valid_iff s s.pc 4).2 hv
  simp [State.fetchBytes, h4, hv']

/-- If the fetch answers bytes, its checks have passed and they are the four bytes at `pc`. -/
theorem fetchBytes_cases (s : State) (bs : List Byte) (h : s.fetchBytes = .ok bs) :
    s.pc.toNat % 4 = 0 ∧ (∀ i, i < 4 → inMap s.params.memValid (Memory.cell s.pc i) = true) ∧
      bs = Memory.readBytes s.mem s.pc 4 := by
  unfold State.fetchBytes at h
  split at h
  · cases h
  · rename_i h4
    split at h
    · rename_i hv; cases h; exact ⟨by omega, (valid_iff ..).1 hv, rfl⟩
    · cases h

/-- If an instruction is fetched, it is what the four bytes at `pc` decode to, and its unused bytes are acceptable. -/
theorem fetchInstr_cases (s : State) (i : Instr) (h : s.fetchInstr = .ok i) :
    s.fetchBytes = .ok (Memory.readBytes s.mem s.pc 4) ∧
      (∃ rest, decode (Memory.readBytes s.mem s.pc 4) = .ok (i, rest)) ∧
      s.acceptsUnused i (Memory.readBytes s.mem s.pc 4) = true := by
  unfold State.fetchInstr at h
  split at h
  · cases h
  · rename_i bs hb
    obtain ⟨-, -, rfl⟩ := fetchBytes_cases s bs hb
    split at h
    · cases h
    · rename_i j rest hd
      split at h
      · rename_i ha; cases h; exact ⟨hb, ⟨rest, hd⟩, ha⟩
      · cases h

/-! ### Step -/

/-- A halted machine stays as it is. -/
theorem step_halted (s : State) (c : Byte) (h : s.halted = some c) : step s = .next s := by
  simp [step, h]

/-- A running machine executes the instruction it fetches. -/
theorem step_running (s : State) (i : Instr) (h : s.halted = none) (hf : s.fetchInstr = .ok i) :
    step s = exec i s := by
  simp [step, h, hf]

/-- If a step answers a next state, the machine was halted and stays, or it fetched an instruction whose meaning gives it. -/
theorem step_cases (s t : State) (h : step s = .next t) :
    (∃ c, s.halted = some c ∧ t = s) ∨ (s.halted = none ∧ ∃ i, s.fetchInstr = .ok i ∧ exec i s = .next t) := by
  unfold step raise at h
  split at h
  · rename_i c hc; cases h; exact .inl ⟨c, hc, rfl⟩
  · rename_i hn
    split at h
    · cases h
    · rename_i i hi; exact .inr ⟨hn, i, hi, h⟩

/-! ### What an executed instruction does to memory -/

/-- The shape of every change of memory: none, or bytes that exist are written; the parameters stay. -/
def memoryStep (s t : State) : Prop :=
  t.params = s.params ∧
    (t.mem = s.mem ∨ ∃ (a : Addr) (bs : List Byte), t.mem = Memory.writeBytes s.mem a bs ∧
      ∀ i, i < bs.length → inMap s.params.memValid (Memory.cell a i) = true)

theorem memoryStep_same (s t : State) (hp : t.params = s.params) (hm : t.mem = s.mem) : memoryStep s t :=
  ⟨hp, .inl hm⟩

theorem memoryStep_load (s t : State) (a : Addr) (n : Nat) (e : Nat → Quad) (z : Reg)
    (h : s.load a n e z = .next t) : memoryStep s t := by
  obtain ⟨-, rfl⟩ := load_cases _ _ _ _ _ _ h
  exact memoryStep_same _ _ (by simp) (by simp)

theorem memoryStep_store (s t : State) (a : Addr) (n : Nat) (x : Reg) (h : s.store a n x = .next t) :
    memoryStep s t := by
  obtain ⟨ha, rfl⟩ := store_cases _ _ _ _ _ h
  exact ⟨rfl, .inr ⟨a, _, rfl, by simpa using ha.2⟩⟩

theorem memoryStep_mul (s t : State) (w : BitVec 32) (a : Quad) (y z : Reg) (h : s.mulBy w a y z = .next t) :
    memoryStep s t := by
  obtain ⟨_, -, rfl⟩ := mulBy_cases _ _ _ _ _ _ h
  exact memoryStep_same _ _ (by simp) (by simp)

theorem memoryStep_div (s t : State) (w : BitVec 32) (a : Quad) (y z : Reg) (h : s.divBy w a y z = .next t) :
    memoryStep s t := by
  obtain ⟨_, _, _, -, -, -, -, _, _, rfl, -, -⟩ := divBy_cases _ _ _ _ _ _ h
  exact memoryStep_same _ _ (by simp) (by simp)

theorem memoryStep_idiv (s t : State) (w : BitVec 32) (a : Quad) (y z : Reg) (h : s.idivBy w a y z = .next t) :
    memoryStep s t := by
  obtain ⟨_, -, -, -, rfl⟩ := idivBy_cases _ _ _ _ _ _ h
  exact memoryStep_same _ _ (by simp) (by simp)

theorem memoryStep_jumpIf (s t : State) (c : Bool) (rel : BitVec 26) (h : s.jumpIf c rel = .next t) :
    memoryStep s t := by
  rw [jumpIf_eq] at h; cases h
  exact memoryStep_same _ _ rfl rfl

theorem memoryStep_halt (s t : State) (c : Byte) (h : s.haltWith c = .next t) : memoryStep s t := by
  rcases haltWith_cases _ _ _ h with ⟨-, rfl⟩ | ⟨cell, -, ha, rfl⟩
  · exact memoryStep_same _ _ rfl rfl
  · exact ⟨rfl, .inr ⟨cell, _, rfl, by simpa using ha.2⟩⟩

theorem memoryStep_trap (s t : State) (x y z : Reg) (h : execTrap x y z s = .next t) : memoryStep s t := by
  obtain ⟨req, -, ⟨-, h⟩ | ⟨-, h⟩⟩ := execTrap_cases _ _ _ _ _ h
  · rcases serveRead_cases _ _ _ _ h with ⟨-, rfl⟩ | ⟨e, -, rfl⟩ | ⟨bytes, bs, -, -, hv, rfl⟩
    · exact memoryStep_same _ _ rfl rfl
    · exact memoryStep_same _ _ (by simp) (by simp)
    · exact ⟨by simp, .inr ⟨req.buf, bs, by simp, hv⟩⟩
  · obtain ⟨-, ⟨-, rfl⟩ | ⟨e, -, rfl⟩ | ⟨c, k, -, -, rfl⟩⟩ := serveWrite_cases _ _ _ _ h
    · exact memoryStep_same _ _ rfl rfl
    · exact memoryStep_same _ _ (by simp) (by simp)
    · exact memoryStep_same _ _ (by simp) (by simp)

theorem memoryStep_getc (s t : State) (x : Reg) (h : execGetc x s = .next t) : memoryStep s t := by
  rcases execGetc_cases _ _ _ h with ⟨-, rfl⟩ | ⟨b, rest, -, rfl⟩
  · exact memoryStep_same _ _ rfl rfl
  · exact memoryStep_same _ _ (by simp) (by simp)

/-- Every executed instruction changes memory in the shape of `memoryStep`. -/
theorem exec_memoryStep (i : Instr) (s t : State) (h : exec i s = .next t) : memoryStep s t := by
  cases i <;>
    first
    | exact memoryStep_load _ _ _ _ _ _ h
    | exact memoryStep_store _ _ _ _ _ h
    | exact memoryStep_jumpIf _ _ _ _ h
    | exact memoryStep_mul _ _ _ _ _ _ h
    | exact memoryStep_div _ _ _ _ _ _ h
    | exact memoryStep_idiv _ _ _ _ _ _ h
    | exact memoryStep_halt _ _ _ h
    | exact memoryStep_trap _ _ _ _ _ h
    | exact memoryStep_getc _ _ _ h
    | (have e := execJmpReg_cases _ _ _ _ h; subst e; exact memoryStep_same _ _ (by simp) (by simp))
    | (cases h; exact memoryStep_same _ _ (by simp) (by simp))

end Sys2Proof.Machine
end

