-- ==== Sys2Proof/Tests/Slice0.lean ====
section
/-! SUPPORT. Tests and witnesses. The words and the expected results of the `test_` theorems are those of the spec's derived
vectors (95_test_vectors.md sections 2 and 3, 96_test_vectors_control_memory_system.md) or written out from the encodings
of 30_encoding.md; each is about one step. The `witness_` theorems show, for every statement of the obligations that has
hypotheses, concrete states and operands that meet them. -/

open Sys2Proof Sys2Proof.Machine

namespace Sys2Proof.Tests

set_option maxRecDepth 20000

/-! ### Helpers -/

/-- The start state of the vectors: `pc = 0x1000`, the listed registers, flags ZF CF OF SF, the listed bytes of memory. -/
def start (rs : List (Reg × Quad)) (f : Flags := ⟨false, false, false, false⟩) (m : Memory := []) : State :=
  rs.foldl (fun s p => s.setReg p.1 p.2) { State.reset with pc := 0x1000#64, flags := f, mem := m }

/-- Four flags written as the vectors write them. -/
def zcos (z c o s : Nat) : Flags := ⟨z == 1, c == 1, o == 1, s == 1⟩

/-- The answer is a next state, and it has the property. -/
def nextHas (r : Result) (p : State → Bool) : Bool :=
  match r with
  | .next t => p t
  | .fault _ => false
  | .refused _ => false

/-- One step on the word ends with these registers and flags, at this `pc`. -/
def ends (w : Nat) (s : State) (rs : List (Reg × Quad)) (f : Flags) (pc : Addr := 0x1004#64) : Bool :=
  nextHas (step (s.withFetchWord 32 w)) fun t => rs.all (fun p => t.reg p.1 == p.2) && t.flags == f && t.pc == pc

/-- One step on the word faults so. -/
def faults (w : Nat) (s : State) (f : Fault) : Bool :=
  match step (s.withFetchWord 32 w) with
  | .next _ => false
  | .fault g => f == g
  | .refused _ => false

/-- The bytes from `a` on. -/
def bytesAt (t : State) (a : Addr) (n : Nat) : List Byte := Memory.readBytes t.mem a n

theorem exists_next {r : Result} {p : State → Bool} (h : nextHas r p = true) : ∃ t, r = .next t ∧ p t = true := by
  cases r with
  | next t => exact ⟨t, rfl, h⟩
  | fault f => cases h
  | refused f => cases h

/-- Only the addresses 0 to 0xFFFF exist. -/
def small (s : State) : State := { s with params := { s.params with memValid := [⟨0, 0x10000⟩] } }

/-- Another choice of parameters. -/
def withParams (s : State) (p : Params) : State := { s with params := p }

/-! ### Well-formedness -/

/-- Each of the eleven checks refuses a byte offset that is no multiple of 4 (rule R72). -/
theorem test_ill_formed_offsets_refused :
    (Instr.jmpRel 1#26).wellFormed = false ∧
    (Instr.je 2#26).wellFormed = false ∧
    (Instr.jne 3#26).wellFormed = false ∧
    (Instr.jl 0x3FFFFFF#26).wellFormed = false ∧
    (Instr.jge 0x1FFFFFE#26).wellFormed = false ∧
    (Instr.jle 0x2000001#26).wellFormed = false ∧
    (Instr.jg 5#26).wellFormed = false ∧
    (Instr.jb 6#26).wellFormed = false ∧
    (Instr.jae 7#26).wellFormed = false ∧
    (Instr.jna 0x3FFFFFE#26).wellFormed = false ∧
    (Instr.ja 0x1FFFFFF#26).wellFormed = false := by decide

theorem test_largest_offsets_well_formed :
    (Instr.jmpRel 0x1FFFFFC#26).wellFormed = true ∧ (Instr.ja 0x2000000#26).wellFormed = true := by decide

/-! ### Decoding: one word written out for every constructor -/

theorem test_decode_arithmetic :
    decodeTableWord 32 0x30010203 = some (.addqReg 1#8 2#8 3#8) ∧
    decodeTableWord 32 0x31010203 = some (.subqReg 1#8 2#8 3#8) ∧
    decodeTableWord 32 0x32010203 = some (.mulqReg 1#8 2#8 3#8) ∧
    decodeTableWord 32 0x33010203 = some (.divqReg 1#8 2#8 3#8) ∧
    decodeTableWord 32 0x34010203 = some (.imulqReg 1#8 2#8 3#8) ∧
    decodeTableWord 32 0x35010203 = some (.idivqReg 1#8 2#8 3#8) ∧
    decodeTableWord 32 0x38FF0203 = some (.addqImm 255#8 2#8 3#8) ∧
    decodeTableWord 32 0x39FF0203 = some (.subqImm 255#8 2#8 3#8) ∧
    decodeTableWord 32 0x3AFF0203 = some (.mulqImm 255#8 2#8 3#8) ∧
    decodeTableWord 32 0x3BFF0203 = some (.divqImm 255#8 2#8 3#8) ∧
    decodeTableWord 32 0x3CFD0203 = some (.imulqImm 0xFD#8 2#8 3#8) ∧
    decodeTableWord 32 0x3DFD0203 = some (.idivqImm 0xFD#8 2#8 3#8) := by decide

theorem test_decode_bitwise_shift :
    decodeTableWord 32 0x50010203 = some (.orq 1#8 2#8 3#8) ∧
    decodeTableWord 32 0x51010203 = some (.andq 1#8 2#8 3#8) ∧
    decodeTableWord 32 0x52010203 = some (.shlqReg 1#8 2#8 3#8) ∧
    decodeTableWord 32 0x53010203 = some (.shrqReg 1#8 2#8 3#8) ∧
    decodeTableWord 32 0x54010203 = some (.sarqReg 1#8 2#8 3#8) ∧
    decodeTableWord 32 0x5AFF0203 = some (.shlqImm 255#8 2#8 3#8) ∧
    decodeTableWord 32 0x5BFF0203 = some (.shrqImm 255#8 2#8 3#8) ∧
    decodeTableWord 32 0x5CFF0203 = some (.sarqImm 255#8 2#8 3#8) ∧
    decodeTableWord 32 0x5E010200 = some (.notq 1#8 2#8) := by decide

theorem test_decode_load_immediate :
    decodeTableWord 32 0x56123403 = some (.ldzwq 0x1234#16 3#8) ∧
    decodeTableWord 32 0x57123403 = some (.ldsq 0x1234#16 3#8) ∧
    decodeTableWord 32 0x5D123403 = some (.shldwq 0x1234#16 3#8) := by decide

theorem test_decode_jumps :
    decodeTableWord 32 0x40010200 = some (.jmpReg 1#8 2#8) ∧
    decodeTableWord 32 0x41FFFFFE = some (.jmpRel (BitVec.ofInt 26 (-8))) ∧
    decodeTableWord 32 0x42000010 = some (.je (BitVec.ofInt 26 (64))) ∧
    decodeTableWord 32 0x43FFFFFD = some (.jne (BitVec.ofInt 26 (-12))) ∧
    decodeTableWord 32 0x44800000 = some (.jl (BitVec.ofInt 26 (-33554432))) ∧
    decodeTableWord 32 0x457FFFFF = some (.jge (BitVec.ofInt 26 (33554428))) ∧
    decodeTableWord 32 0x46000001 = some (.jle (BitVec.ofInt 26 (4))) ∧
    decodeTableWord 32 0x47FFFFFF = some (.jg (BitVec.ofInt 26 (-4))) ∧
    decodeTableWord 32 0x48000000 = some (.jb (BitVec.ofInt 26 (0))) ∧
    decodeTableWord 32 0x49000003 = some (.jae (BitVec.ofInt 26 (12))) ∧
    decodeTableWord 32 0x4AFFFFFB = some (.jna (BitVec.ofInt 26 (-20))) ∧
    decodeTableWord 32 0x4B123456 = some (.ja (BitVec.ofInt 26 (4772184))) := by decide

theorem test_decode_loads_indexed :
    decodeTableWord 32 0x10010203 = some (.movqLoadIndexed 1#8 2#8 3#8) ∧
    decodeTableWord 32 0x11010203 = some (.movzlqIndexed 1#8 2#8 3#8) ∧
    decodeTableWord 32 0x12010203 = some (.movzwqIndexed 1#8 2#8 3#8) ∧
    decodeTableWord 32 0x13010203 = some (.movzbqIndexed 1#8 2#8 3#8) ∧
    decodeTableWord 32 0x15010203 = some (.movslqIndexed 1#8 2#8 3#8) ∧
    decodeTableWord 32 0x16010203 = some (.movswqIndexed 1#8 2#8 3#8) ∧
    decodeTableWord 32 0x17010203 = some (.movsbqIndexed 1#8 2#8 3#8) := by decide

theorem test_decode_loads_displacement :
    decodeTableWord 32 0x18F80203 = some (.movqLoadDisp 0xF8#8 2#8 3#8) ∧
    decodeTableWord 32 0x19F80203 = some (.movzlqDisp 0xF8#8 2#8 3#8) ∧
    decodeTableWord 32 0x1AF80203 = some (.movzwqDisp 0xF8#8 2#8 3#8) ∧
    decodeTableWord 32 0x1BF80203 = some (.movzbqDisp 0xF8#8 2#8 3#8) ∧
    decodeTableWord 32 0x1DF80203 = some (.movslqDisp 0xF8#8 2#8 3#8) ∧
    decodeTableWord 32 0x1EF80203 = some (.movswqDisp 0xF8#8 2#8 3#8) ∧
    decodeTableWord 32 0x1FF80203 = some (.movsbqDisp 0xF8#8 2#8 3#8) := by decide

theorem test_decode_loads_scaled2 :
    decodeTableWord 32 0x80010203 = some (.movqLoadScaled2 1#8 2#8 3#8) ∧
    decodeTableWord 32 0x81010203 = some (.movzlqScaled2 1#8 2#8 3#8) ∧
    decodeTableWord 32 0x82010203 = some (.movzwqScaled2 1#8 2#8 3#8) ∧
    decodeTableWord 32 0x83010203 = some (.movzbqScaled2 1#8 2#8 3#8) ∧
    decodeTableWord 32 0x85010203 = some (.movslqScaled2 1#8 2#8 3#8) ∧
    decodeTableWord 32 0x86010203 = some (.movswqScaled2 1#8 2#8 3#8) ∧
    decodeTableWord 32 0x87010203 = some (.movsbqScaled2 1#8 2#8 3#8) := by decide

theorem test_decode_loads_scaled4 :
    decodeTableWord 32 0xA0010203 = some (.movqLoadScaled4 1#8 2#8 3#8) ∧
    decodeTableWord 32 0xA1010203 = some (.movzlqScaled4 1#8 2#8 3#8) ∧
    decodeTableWord 32 0xA2010203 = some (.movzwqScaled4 1#8 2#8 3#8) ∧
    decodeTableWord 32 0xA3010203 = some (.movzbqScaled4 1#8 2#8 3#8) ∧
    decodeTableWord 32 0xA5010203 = some (.movslqScaled4 1#8 2#8 3#8) ∧
    decodeTableWord 32 0xA6010203 = some (.movswqScaled4 1#8 2#8 3#8) ∧
    decodeTableWord 32 0xA7010203 = some (.movsbqScaled4 1#8 2#8 3#8) := by decide

theorem test_decode_loads_scaled8 :
    decodeTableWord 32 0xC0010203 = some (.movqLoadScaled8 1#8 2#8 3#8) ∧
    decodeTableWord 32 0xC1010203 = some (.movzlqScaled8 1#8 2#8 3#8) ∧
    decodeTableWord 32 0xC2010203 = some (.movzwqScaled8 1#8 2#8 3#8) ∧
    decodeTableWord 32 0xC3010203 = some (.movzbqScaled8 1#8 2#8 3#8) ∧
    decodeTableWord 32 0xC5010203 = some (.movslqScaled8 1#8 2#8 3#8) ∧
    decodeTableWord 32 0xC6010203 = some (.movswqScaled8 1#8 2#8 3#8) ∧
    decodeTableWord 32 0xC7010203 = some (.movsbqScaled8 1#8 2#8 3#8) := by decide

theorem test_decode_stores_indexed :
    decodeTableWord 32 0x20010203 = some (.movqStoreIndexed 1#8 2#8 3#8) ∧
    decodeTableWord 32 0x21010203 = some (.movlIndexed 1#8 2#8 3#8) ∧
    decodeTableWord 32 0x22010203 = some (.movwIndexed 1#8 2#8 3#8) ∧
    decodeTableWord 32 0x23010203 = some (.movbIndexed 1#8 2#8 3#8) := by decide

theorem test_decode_stores_displacement :
    decodeTableWord 32 0x2801F803 = some (.movqStoreDisp 1#8 0xF8#8 3#8) ∧
    decodeTableWord 32 0x2901F803 = some (.movlDisp 1#8 0xF8#8 3#8) ∧
    decodeTableWord 32 0x2A01F803 = some (.movwDisp 1#8 0xF8#8 3#8) ∧
    decodeTableWord 32 0x2B01F803 = some (.movbDisp 1#8 0xF8#8 3#8) := by decide

theorem test_decode_stores_scaled2 :
    decodeTableWord 32 0x90010203 = some (.movqStoreScaled2 1#8 2#8 3#8) ∧
    decodeTableWord 32 0x91010203 = some (.movlScaled2 1#8 2#8 3#8) ∧
    decodeTableWord 32 0x92010203 = some (.movwScaled2 1#8 2#8 3#8) ∧
    decodeTableWord 32 0x93010203 = some (.movbScaled2 1#8 2#8 3#8) := by decide

theorem test_decode_stores_scaled4 :
    decodeTableWord 32 0xB0010203 = some (.movqStoreScaled4 1#8 2#8 3#8) ∧
    decodeTableWord 32 0xB1010203 = some (.movlScaled4 1#8 2#8 3#8) ∧
    decodeTableWord 32 0xB2010203 = some (.movwScaled4 1#8 2#8 3#8) ∧
    decodeTableWord 32 0xB3010203 = some (.movbScaled4 1#8 2#8 3#8) := by decide

theorem test_decode_stores_scaled8 :
    decodeTableWord 32 0xD0010203 = some (.movqStoreScaled8 1#8 2#8 3#8) ∧
    decodeTableWord 32 0xD1010203 = some (.movlScaled8 1#8 2#8 3#8) ∧
    decodeTableWord 32 0xD2010203 = some (.movwScaled8 1#8 2#8 3#8) ∧
    decodeTableWord 32 0xD3010203 = some (.movbScaled8 1#8 2#8 3#8) := by decide

theorem test_decode_system :
    decodeTableWord 32 0x01050000 = some (.haltReg 5#8) ∧
    decodeTableWord 32 0x02010203 = some (.trap 1#8 2#8 3#8) ∧
    decodeTableWord 32 0x092A0000 = some (.haltImm 42#8) ∧
    decodeTableWord 32 0x60050000 = some (.getc 5#8) ∧
    decodeTableWord 32 0x61050000 = some (.putcReg 5#8) ∧
    decodeTableWord 32 0x692A0000 = some (.putcImm 42#8) ∧
    decodeTableWord 32 0xFF010203 = some .nop := by decide

/-- Unused operand bytes are ignored, undefined opcodes are refused by name, too few bytes are no instruction (rules R80, R81, R63). -/
theorem test_decode_unused_undefined_truncated :
    decodeTableWord 32 0x5E010277 = some (.notq 1#8 2#8) ∧ decodeTableWord 32 0x01015566 = some (.haltReg 1#8) ∧
    decode [0x14#8, 1#8, 2#8, 3#8] = .error (.undefinedOpcode 0x14#8) ∧
    decode [0x00#8, 0#8, 0#8, 0#8] = .error (.undefinedOpcode 0x00#8) ∧
    decode [0x30#8, 1#8, 2#8] = .error .truncated := by decide

/-! ### Arithmetic (vectors 2.1) -/

theorem test_addq_unsigned_wrap :
    ends 0x30010203 (start [(1#8, 0xFFFFFFFFFFFFFFFF#64), (2#8, 0x1#64)]) [(3#8, 0x0#64)]
      (zcos 1 1 0 0) = true := by decide

theorem test_addq_signed_overflow_same_register :
    ends 0x30010101 (start [(1#8, 0x4000000000000000#64)]) [(1#8, 0x8000000000000000#64)]
      (zcos 0 0 1 1) = true := by decide

theorem test_addq_immediate_is_unsigned :
    ends 0x38FF0203 (start [(2#8, 0x1#64)]) [(3#8, 0x100#64)] (zcos 0 0 0 0) = true := by decide

theorem test_addq_immediate_overflow :
    ends 0x38010203 (start [(2#8, 0x7FFFFFFFFFFFFFFF#64)]) [(3#8, 0x8000000000000000#64)]
      (zcos 0 0 1 1) = true := by decide

theorem test_subq_borrow :
    ends 0x31010203 (start [(1#8, 0x5#64), (2#8, 0x3#64)]) [(3#8, 0xFFFFFFFFFFFFFFFE#64)]
      (zcos 0 1 0 1) = true := by decide

theorem test_subq_compare_discards :
    ends 0x31010200 (start [(1#8, 0x7#64), (2#8, 0x7#64)]) [(0#8, 0x0#64)] (zcos 1 0 0 0) = true := by decide

theorem test_subq_immediate_borrow :
    ends 0x39010203 (start [(2#8, 0x0#64)]) [(3#8, 0xFFFFFFFFFFFFFFFF#64)] (zcos 0 1 0 1) = true := by decide

theorem test_subq_immediate_overflow :
    ends 0x39010203 (start [(2#8, 0x8000000000000000#64)]) [(3#8, 0x7FFFFFFFFFFFFFFF#64)]
      (zcos 0 0 1 0) = true := by decide

theorem test_mulq_high_quad :
    ends 0x32010202 (start [(1#8, 0xFFFFFFFFFFFFFFFF#64), (2#8, 0xFFFFFFFFFFFFFFFF#64)]) [(2#8, 0x1#64),
      (3#8, 0xFFFFFFFFFFFFFFFE#64)] (zcos 0 0 0 0) = true := by decide

theorem test_mulq_low_quad_zero :
    ends 0x32010203 (start [(1#8, 0x100000000#64), (2#8, 0x100000000#64)]) [(3#8, 0x0#64), (4#8, 0x1#64)]
      (zcos 0 1 1 0) = true := by decide

theorem test_mulq_immediate :
    ends 0x3AFF0203 (start [(2#8, 0xFFFFFFFFFFFFFFFF#64)]) [(3#8, 0xFFFFFFFFFFFFFF01#64), (4#8, 0xFE#64)]
      (zcos 0 0 0 0) = true := by decide

theorem test_mulq_register_overflow :
    faults 0x320102FF (start [(1#8, 0x3#64), (2#8, 0x4#64)]) (.registerIndexOverflow 0x1000#64 0x320102FF#32) = true := by decide

theorem test_divq_overlap :
    ends 0x33010202 (start [(1#8, 0x3#64), (2#8, 0xA#64), (3#8, 0x0#64)]) [(2#8, 0x3#64), (3#8, 0x0#64),
      (4#8, 0x1#64)] (zcos 0 0 0 0) = true := by decide

theorem test_divq_wide_quotient :
    ends 0x33010204 (start [(1#8, 0xFFFFFFFFFFFFFFFF#64), (2#8, 0xFFFFFFFFFFFFFFFF#64),
      (3#8, 0xFFFFFFFFFFFFFFFF#64)]) [(4#8, 0x1#64), (5#8, 0x1#64), (6#8, 0x0#64)] (zcos 0 0 0 0) = true := by decide

theorem test_divq_immediate :
    ends 0x3B0A0204 (start [(2#8, 0x3039#64)]) [(4#8, 0x4D2#64), (5#8, 0x0#64), (6#8, 0x5#64)]
      (zcos 0 0 0 0) = true := by decide

theorem test_divq_immediate_by_zero :
    faults 0x3B000204 (start [(2#8, 0x5#64)]) (.divideByZero 0x1000#64 0x3B000204#32) = true := by decide

theorem test_imulq_negative :
    ends 0x34010203 (start [(1#8, 0xFFFFFFFFFFFFFFFF#64), (2#8, 0x5#64)]) [(3#8, 0xFFFFFFFFFFFFFFFB#64)]
      (zcos 0 1 0 0) = true := by decide

theorem test_imulq_signed_overflow_only :
    ends 0x34010203 (start [(1#8, 0x100000000#64), (2#8, 0x80000000#64)]) [(3#8, 0x8000000000000000#64)]
      (zcos 0 0 1 0) = true := by decide

theorem test_imulq_immediate_is_signed :
    ends 0x3C800203 (start [(2#8, 0x100000000000000#64)]) [(3#8, 0x8000000000000000#64)]
      (zcos 0 1 0 0) = true := by decide

theorem test_imulq_immediate_keeps_zf_sf :
    ends 0x3C000203 (start [(2#8, 0xFFFFFFFFFFFFFFFF#64), (3#8, 0x5#64)] (zcos 1 1 1 1)) [(3#8, 0x0#64)]
      (zcos 1 0 0 1) = true := by decide

theorem test_idivq_truncates :
    ends 0x35010203 (start [(1#8, 0x2#64), (2#8, 0xFFFFFFFFFFFFFFF9#64)]) [(3#8, 0xFFFFFFFFFFFFFFFD#64),
      (4#8, 0xFFFFFFFFFFFFFFFF#64)] (zcos 0 0 0 0) = true := by decide

theorem test_idivq_overflow :
    faults 0x35010203 (start [(1#8, 0xFFFFFFFFFFFFFFFF#64), (2#8, 0x8000000000000000#64)]) (.divideOverflow 0x1000#64 0x35010203#32) = true := by decide

theorem test_idivq_immediate_negative :
    ends 0x3DFD0203 (start [(2#8, 0xA#64)]) [(3#8, 0xFFFFFFFFFFFFFFFD#64), (4#8, 0x1#64)]
      (zcos 0 0 0 0) = true := by decide

theorem test_idivq_immediate_by_zero :
    faults 0x3D000203 (start [(2#8, 0x7#64)]) (.divideByZero 0x1000#64 0x3D000203#32) = true := by decide

/-! ### Bitwise and shift (vectors 2.2) -/

theorem test_andq_writes_zf_alone :
    ends 0x51010203 (start [(1#8, 0xF0F0F0F0F0F0F0F0#64), (2#8, 0xFF00FF00FF00FF00#64)] (zcos 0 1 1 1))
      [(3#8, 0xF000F000F000F000#64)] (zcos 0 1 1 1) = true := by decide

theorem test_andq_zf_of_computed_value :
    ends 0x51010200 (start [(1#8, 0x1#64), (2#8, 0x2#64)]) [(0#8, 0x0#64)] (zcos 1 0 0 0) = true := by decide

theorem test_orq_clears_zf :
    ends 0x50010203 (start [(1#8, 0xF0F0F0F0F0F0F0F0#64), (2#8, 0xFF00FF00FF00FF00#64)] (zcos 1 1 1 1))
      [(3#8, 0xFFF0FFF0FFF0FFF0#64)] (zcos 0 1 1 1) = true := by decide

theorem test_notq_destination_is_y :
    ends 0x5E010277 (start [(1#8, 0xFFFFFFFFFFFFFFFF#64), (2#8, 0x5#64)]) [(2#8, 0x0#64),
      (1#8, 0xFFFFFFFFFFFFFFFF#64)] (zcos 1 0 0 0) = true := by decide

theorem test_shlq_carry_and_kept_flags :
    ends 0x5A040203 (start [(2#8, 0x123456789ABCDEF#64)] (zcos 1 1 1 1)) [(3#8, 0x123456789ABCDEF0#64)]
      (zcos 1 0 1 1) = true := by decide

theorem test_shlq_immediate_64 :
    ends 0x5A400203 (start [(2#8, 0xFFFFFFFFFFFFFFFF#64), (3#8, 0x5#64)] (zcos 0 1 0 0)) [(3#8, 0x0#64)]
      (zcos 0 0 0 0) = true := by decide

theorem test_shlq_register_count :
    ends 0x52010203 (start [(1#8, 0x8#64), (2#8, 0xFF0000000000FF#64)]) [(3#8, 0xFF0000000000FF00#64)]
      (zcos 0 0 0 0) = true := by decide

theorem test_shlq_whole_register_is_the_count :
    ends 0x52010203 (start [(1#8, 0x100000000#64), (2#8, 0xFFFFFFFFFFFFFFFF#64), (3#8, 0x5#64)])
      [(3#8, 0x0#64)] (zcos 0 0 0 0) = true := by decide

theorem test_shrq_immediate_keeps_flags :
    ends 0x5B010203 (start [(2#8, 0x8000000000000001#64)] (zcos 0 1 0 0)) [(3#8, 0x4000000000000000#64)]
      (zcos 0 1 0 0) = true := by decide

theorem test_shrq_immediate_64 :
    ends 0x5B400203 (start [(2#8, 0xFFFFFFFFFFFFFFFF#64), (3#8, 0x5#64)]) [(3#8, 0x0#64)]
      (zcos 0 0 0 0) = true := by decide

theorem test_shrq_register_count :
    ends 0x53010203 (start [(1#8, 0x10#64), (2#8, 0xFEDCBA9876543210#64)]) [(3#8, 0xFEDCBA987654#64)]
      (zcos 0 0 0 0) = true := by decide

theorem test_sarq_immediate_64 :
    ends 0x5C400203 (start [(2#8, 0x8000000000000000#64)]) [(3#8, 0xFFFFFFFFFFFFFFFF#64)]
      (zcos 0 0 0 0) = true := by decide

theorem test_sarq_immediate_4 :
    ends 0x5C040203 (start [(2#8, 0xFEDCBA9876543210#64)]) [(3#8, 0xFFEDCBA987654321#64)]
      (zcos 0 0 0 0) = true := by decide

theorem test_sarq_register_rounds_down :
    ends 0x54010203 (start [(1#8, 0x1#64), (2#8, 0xFFFFFFFFFFFFFFF9#64)]) [(3#8, 0xFFFFFFFFFFFFFFFC#64)]
      (zcos 0 0 0 0) = true := by decide

theorem test_sarq_register_huge_count :
    ends 0x54010203 (start [(1#8, 0xFFFFFFFFFFFFFFFF#64), (2#8, 0x8000000000000000#64)] (zcos 1 1 1 1))
      [(3#8, 0xFFFFFFFFFFFFFFFF#64)] (zcos 1 1 1 1) = true := by decide

/-! ### Load immediate (vectors 2.3) -/

theorem test_ldzwq_clears_upper_bits :
    ends 0x56123403 (start [(3#8, 0xFFFFFFFFFFFFFFFF#64)] (zcos 1 1 1 1)) [(3#8, 0x1234#64)]
      (zcos 0 1 1 1) = true := by decide

theorem test_ldzwq_discarded :
    ends 0x56800000 (start [] (zcos 1 0 0 0)) [(0#8, 0x0#64)] (zcos 0 0 0 0) = true := by decide

theorem test_ldsq_sign_extends :
    ends 0x57800003 (start []) [(3#8, 0xFFFFFFFFFFFF8000#64)] (zcos 0 0 0 0) = true := by decide

theorem test_ldsq_zero :
    ends 0x57000003 (start [(3#8, 0x5#64)] (zcos 0 1 1 1)) [(3#8, 0x0#64)] (zcos 1 1 1 1) = true := by decide

theorem test_shldwq_bit_48_to_cf :
    ends 0x5D000003 (start [(3#8, 0x1000000000000#64)]) [(3#8, 0x0#64)] (zcos 1 1 0 0) = true := by decide

theorem test_shldwq_bit_63_not_to_cf :
    ends 0x5D000103 (start [(3#8, 0x8000000000000000#64)]) [(3#8, 0x1#64)] (zcos 0 0 0 0) = true := by decide

/-! ### Jumps (vectors 2.4) -/

theorem test_jmp_register_links :
    ends 0x40010200 (start [(1#8, 0x2000#64)] (zcos 1 1 1 1)) [(2#8, 0x1004#64)]
      (zcos 1 1 1 1) 0x2000#64 = true := by decide

theorem test_jmp_same_register :
    ends 0x40010100 (start [(1#8, 0x2000#64)]) [(1#8, 0x1004#64)] (zcos 0 0 0 0) 0x2000#64 = true := by decide

theorem test_jmp_relative_back : ends 0x41FFFFFE (start []) [] (zcos 0 0 0 0) 0xFF8#64 = true := by decide

theorem test_jmp_relative_largest_backward :
    ends 0x41800000 (start []) [] (zcos 0 0 0 0) 0xFFFFFFFFFE001000#64 = true := by decide

/-- The sixteen flag states in the order 0000, 0001, ..., 1111. -/
def flagStates : List Flags :=
  (List.range 16).map fun k => zcos (k / 8) (k / 4 % 2) (k / 2 % 2) (k % 2)

/-- Which of the sixteen flag states take a jump of +64 bytes with this opcode. -/
def taken (op : Nat) : List Bool :=
  flagStates.map fun f => ends (op * 2 ^ 24 + 0x10) (start [] f) [] f 0x1040#64

/-- Which do not. -/
def fallsThrough (op : Nat) : List Bool :=
  flagStates.map fun f => ends (op * 2 ^ 24 + 0x10) (start [] f) [] f

theorem test_je_truth_table :
    taken 0x42 =
      [false, false, false, false, false, false, false, false, true, true, true, true, true, true, true, true] ∧
    fallsThrough 0x42 = (taken 0x42).map not := by decide

theorem test_jne_truth_table :
    taken 0x43 =
      [true, true, true, true, true, true, true, true, false, false, false, false, false, false, false, false] ∧
    fallsThrough 0x43 = (taken 0x43).map not := by decide

theorem test_jl_truth_table :
    taken 0x44 =
      [false, true, true, false, false, true, true, false, false, true, true, false, false, true, true, false] ∧
    fallsThrough 0x44 = (taken 0x44).map not := by decide

theorem test_jge_truth_table :
    taken 0x45 =
      [true, false, false, true, true, false, false, true, true, false, false, true, true, false, false, true] ∧
    fallsThrough 0x45 = (taken 0x45).map not := by decide

theorem test_jle_truth_table :
    taken 0x46 =
      [false, true, true, false, false, true, true, false, true, true, true, true, true, true, true, true] ∧
    fallsThrough 0x46 = (taken 0x46).map not := by decide

theorem test_jg_truth_table :
    taken 0x47 =
      [true, false, false, true, true, false, false, true, false, false, false, false, false, false, false, false] ∧
    fallsThrough 0x47 = (taken 0x47).map not := by decide

theorem test_jb_truth_table :
    taken 0x48 =
      [false, false, false, false, true, true, true, true, false, false, false, false, true, true, true, true] ∧
    fallsThrough 0x48 = (taken 0x48).map not := by decide

theorem test_jae_truth_table :
    taken 0x49 =
      [true, true, true, true, false, false, false, false, true, true, true, true, false, false, false, false] ∧
    fallsThrough 0x49 = (taken 0x49).map not := by decide

theorem test_jna_truth_table :
    taken 0x4A =
      [false, false, false, false, true, true, true, true, true, true, true, true, true, true, true, true] ∧
    fallsThrough 0x4A = (taken 0x4A).map not := by decide

theorem test_ja_truth_table :
    taken 0x4B =
      [true, true, true, true, false, false, false, false, false, false, false, false, false, false, false, false] ∧
    fallsThrough 0x4B = (taken 0x4B).map not := by decide

/-! ### Loads (vectors 2.5) -/

/-- Bytes 0x2000 to 0x200F of the load vectors. -/
def loadBytes : Memory :=
  [(0x2000, 0x01#8), (0x2001, 0x02#8), (0x2002, 0x03#8), (0x2003, 0x04#8), (0x2004, 0x05#8), (0x2005, 0x06#8),
    (0x2006, 0x07#8), (0x2007, 0x08#8), (0x2008, 0x89#8), (0x2009, 0xAB#8), (0x200A, 0xCD#8), (0x200B, 0xEF#8),
    (0x200C, 0x01#8), (0x200D, 0x23#8), (0x200E, 0x45#8), (0x200F, 0x67#8)]

/-- One load from the start state of the vectors: `%3` all ones and flags 0101 before. -/
def loads (w : Nat) (r1 r2 v : Quad) : Bool :=
  ends w (start [(1#8, r1), (2#8, r2), (3#8, 0xFFFFFFFFFFFFFFFF#64)] (zcos 0 1 0 1) loadBytes)
    [(1#8, r1), (2#8, r2), (3#8, v)] (zcos 0 1 0 1)

theorem test_movq_loads_in_five_forms :
    loads 0x10010203 0x2000#64 8#64 0x89ABCDEF01234567#64 = true ∧
    loads 0x80010203 0x2000#64 4#64 0x89ABCDEF01234567#64 = true ∧
    loads 0xA0010203 0x2000#64 2#64 0x89ABCDEF01234567#64 = true ∧
    loads 0xC0010203 0x2000#64 1#64 0x89ABCDEF01234567#64 = true ∧
    loads 0x18F80203 0#64 0x2008#64 0x102030405060708#64 = true := by decide

theorem test_movzlq_loads_in_five_forms :
    loads 0x11010203 0x2000#64 8#64 0x89ABCDEF#64 = true ∧
    loads 0x81010203 0x2000#64 4#64 0x89ABCDEF#64 = true ∧
    loads 0xA1010203 0x2000#64 2#64 0x89ABCDEF#64 = true ∧
    loads 0xC1010203 0x2000#64 1#64 0x89ABCDEF#64 = true ∧
    loads 0x19F80203 0#64 0x2008#64 0x1020304#64 = true := by decide

theorem test_movzwq_loads_in_five_forms :
    loads 0x12010203 0x2000#64 8#64 0x89AB#64 = true ∧
    loads 0x82010203 0x2000#64 4#64 0x89AB#64 = true ∧
    loads 0xA2010203 0x2000#64 2#64 0x89AB#64 = true ∧
    loads 0xC2010203 0x2000#64 1#64 0x89AB#64 = true ∧
    loads 0x1AF80203 0#64 0x2008#64 0x102#64 = true := by decide

theorem test_movzbq_loads_in_five_forms :
    loads 0x13010203 0x2000#64 8#64 0x89#64 = true ∧
    loads 0x83010203 0x2000#64 4#64 0x89#64 = true ∧
    loads 0xA3010203 0x2000#64 2#64 0x89#64 = true ∧
    loads 0xC3010203 0x2000#64 1#64 0x89#64 = true ∧
    loads 0x1BF80203 0#64 0x2008#64 0x1#64 = true := by decide

theorem test_movslq_loads_in_five_forms :
    loads 0x15010203 0x2000#64 8#64 0xFFFFFFFF89ABCDEF#64 = true ∧
    loads 0x85010203 0x2000#64 4#64 0xFFFFFFFF89ABCDEF#64 = true ∧
    loads 0xA5010203 0x2000#64 2#64 0xFFFFFFFF89ABCDEF#64 = true ∧
    loads 0xC5010203 0x2000#64 1#64 0xFFFFFFFF89ABCDEF#64 = true ∧
    loads 0x1DF80203 0#64 0x2008#64 0x1020304#64 = true := by decide

theorem test_movswq_loads_in_five_forms :
    loads 0x16010203 0x2000#64 8#64 0xFFFFFFFFFFFF89AB#64 = true ∧
    loads 0x86010203 0x2000#64 4#64 0xFFFFFFFFFFFF89AB#64 = true ∧
    loads 0xA6010203 0x2000#64 2#64 0xFFFFFFFFFFFF89AB#64 = true ∧
    loads 0xC6010203 0x2000#64 1#64 0xFFFFFFFFFFFF89AB#64 = true ∧
    loads 0x1EF80203 0#64 0x2008#64 0x102#64 = true := by decide

theorem test_movsbq_loads_in_five_forms :
    loads 0x17010203 0x2000#64 8#64 0xFFFFFFFFFFFFFF89#64 = true ∧
    loads 0x87010203 0x2000#64 4#64 0xFFFFFFFFFFFFFF89#64 = true ∧
    loads 0xA7010203 0x2000#64 2#64 0xFFFFFFFFFFFFFF89#64 = true ∧
    loads 0xC7010203 0x2000#64 1#64 0xFFFFFFFFFFFFFF89#64 = true ∧
    loads 0x1FF80203 0#64 0x2008#64 0x1#64 = true := by decide

theorem test_load_address_wraps :
    ends 0x10010203 (start [(1#8, 0xFFFFFFFFFFFFFFF8#64), (2#8, 0x2010#64)] (zcos 0 0 0 0) loadBytes)
      [(3#8, 0x89ABCDEF01234567#64)] (zcos 0 0 0 0) = true ∧
    ends 0xC3010203 (start [(1#8, 0x2000#64), (2#8, 0x2000000000000000#64)] (zcos 0 0 0 0) loadBytes)
      [(3#8, 1#64)] (zcos 0 0 0 0) = true := by decide

theorem test_load_misaligned_even_if_discarded :
    faults 0x10010200 (start [(1#8, 0x2000#64), (2#8, 1#64)]) (.misalignedAccess 0x2001#64 8) = true := by decide

theorem test_load_alignment_before_validity :
    faults 0x10010203 (small (start [(1#8, 0xFFF8#64), (2#8, 9#64)])) (.misalignedAccess 0x10001#64 8) = true ∧
    faults 0x10010203 (small (start [(1#8, 0xFFF8#64), (2#8, 8#64)])) (.memoryAccessFault 0x10000#64 8 .read) = true := by
  decide

/-! ### Stores (vectors 2.6) -/

/-- Bytes 0x2000 to 0x200F all `EE`. -/
def storeBytes : Memory := (List.range 16).map fun i => (0x2000 + i, 0xEE#8)

/-- One store of `%1 = 0x1122334455667788` from the start state of the vectors, and the bytes 0x2000 to 0x200F after it. -/
def stores (w : Nat) (r2 r3 : Quad) (bs : List Byte) : Bool :=
  nextHas (step ((start [(1#8, 0x1122334455667788#64), (2#8, r2), (3#8, r3)] (zcos 1 0 1 0) storeBytes).withFetchWord 32 w))
    fun t => bytesAt t 0x2000#64 16 == List.replicate 8 0xEE#8 ++ bs ++ List.replicate (8 - bs.length) 0xEE#8 &&
      t.flags == zcos 1 0 1 0 && t.pc == 0x1004#64

theorem test_movq_stores_in_five_forms :
    stores 0x20010203 0x2000#64 8#64 [0x11#8, 0x22#8, 0x33#8, 0x44#8, 0x55#8, 0x66#8, 0x77#8, 0x88#8] = true ∧
    stores 0x90010203 0x2000#64 4#64 [0x11#8, 0x22#8, 0x33#8, 0x44#8, 0x55#8, 0x66#8, 0x77#8, 0x88#8] = true ∧
    stores 0xB0010203 0x2000#64 2#64 [0x11#8, 0x22#8, 0x33#8, 0x44#8, 0x55#8, 0x66#8, 0x77#8, 0x88#8] = true ∧
    stores 0xD0010203 0x2000#64 1#64 [0x11#8, 0x22#8, 0x33#8, 0x44#8, 0x55#8, 0x66#8, 0x77#8, 0x88#8] = true ∧
    stores 0x2801F803 0#64 0x2010#64 [0x11#8, 0x22#8, 0x33#8, 0x44#8, 0x55#8, 0x66#8, 0x77#8, 0x88#8] = true := by decide

theorem test_movl_stores_in_five_forms :
    stores 0x21010203 0x2000#64 8#64 [0x55#8, 0x66#8, 0x77#8, 0x88#8] = true ∧
    stores 0x91010203 0x2000#64 4#64 [0x55#8, 0x66#8, 0x77#8, 0x88#8] = true ∧
    stores 0xB1010203 0x2000#64 2#64 [0x55#8, 0x66#8, 0x77#8, 0x88#8] = true ∧
    stores 0xD1010203 0x2000#64 1#64 [0x55#8, 0x66#8, 0x77#8, 0x88#8] = true ∧
    stores 0x2901F803 0#64 0x2010#64 [0x55#8, 0x66#8, 0x77#8, 0x88#8] = true := by decide

theorem test_movw_stores_in_five_forms :
    stores 0x22010203 0x2000#64 8#64 [0x77#8, 0x88#8] = true ∧
    stores 0x92010203 0x2000#64 4#64 [0x77#8, 0x88#8] = true ∧
    stores 0xB2010203 0x2000#64 2#64 [0x77#8, 0x88#8] = true ∧
    stores 0xD2010203 0x2000#64 1#64 [0x77#8, 0x88#8] = true ∧
    stores 0x2A01F803 0#64 0x2010#64 [0x77#8, 0x88#8] = true := by decide

theorem test_movb_stores_in_five_forms :
    stores 0x23010203 0x2000#64 8#64 [0x88#8] = true ∧
    stores 0x93010203 0x2000#64 4#64 [0x88#8] = true ∧
    stores 0xB3010203 0x2000#64 2#64 [0x88#8] = true ∧
    stores 0xD3010203 0x2000#64 1#64 [0x88#8] = true ∧
    stores 0x2B01F803 0#64 0x2010#64 [0x88#8] = true := by decide

theorem test_store_misaligned :
    faults 0x20010203 (start [(2#8, 0x2000#64), (3#8, 0xC#64)]) (.misalignedAccess 0x200C#64 8) = true := by decide

/-- Storing the value an unlisted address reads as leaves no entry: equal memories are equal data. -/
theorem test_store_keeps_canonical_form :
    nextHas (step ((start [(2#8, 0x2000#64)] (zcos 0 0 0 0) storeBytes).withFetchWord 32 0x20000200)) (fun t =>
      t.mem == [(0x1000, 0x20#8), (0x1002, 0x02#8)] ++ storeBytes.drop 8) = true := by decide

/-! ### System and input/output (vectors 2.7), fault outcomes (2.8) -/

theorem test_halt_register_low_byte :
    nextHas (step ((start [(1#8, 0x1234#64)]).withFetchWord 32 0x01015566)) (fun t =>
      t.halted == some 52#8 && t.pc == 0x1000#64) = true := by decide

theorem test_halt_immediate :
    nextHas (step ((start []).withFetchWord 32 0x092A0909)) (fun t =>
      t.halted == some 42#8 && t.pc == 0x1000#64) = true := by decide

theorem test_getc_zero_extends :
    nextHas (step (({ start [(5#8, 0xFFFFFFFFFFFFFFFF#64)] with input := [0x41#8, 0x0A#8] }).withFetchWord 32 0x60050000))
      (fun t => t.reg 5#8 == 0x41#64 && t.input == [0x0A#8] && t.pc == 0x1004#64) = true := by decide

theorem test_getc_blocks :
    nextHas (step ((start [(5#8, 7#64)]).withFetchWord 32 0x60050000))
      (fun t => t == (start [(5#8, 7#64)]).withFetchWord 32 0x60050000) = true := by decide

theorem test_putc_register_low_byte :
    nextHas (step ((start [(5#8, 0x1234567890ABCD41#64)]).withFetchWord 32 0x61050000)) (fun t =>
      t.output == [0x41#8] && t.pc == 0x1004#64) = true := by decide

theorem test_putc_immediate :
    nextHas (step ((start []).withFetchWord 32 0x69FF0102)) (fun t => t.output == [0xFF#8]) = true := by decide

theorem test_nop :
    ends 0xFF010203 (start [(1#8, 5#64)] (zcos 1 1 0 0)) [(1#8, 5#64)] (zcos 1 1 0 0) = true := by decide

/-- The parameter block at 0x2000 (descriptor, buffer 0x3000, size) and "hello" at 0x3000. -/
def blockBytes (fd nbyte : Byte) : Memory :=
  (if fd = 0#8 then [] else [(0x2003, fd)]) ++ [(0x200E, 0x30#8)] ++ (if nbyte = 0#8 then [] else [(0x2017, nbyte)]) ++
    [(0x3000, 0x68#8), (0x3001, 0x65#8), (0x3002, 0x6C#8), (0x3003, 0x6C#8), (0x3004, 0x6F#8)]

/-- A `write` whose answer is prepared: everything offered is accepted. -/
def writing : State :=
  { start [(1#8, 1#64), (2#8, 0x2000#64)] (zcos 0 1 0 1) (blockBytes 1#8 5#8) with writeAnswers := [some (.accepted 5)] }

/-- A `read` of four bytes whose answer is prepared: six bytes are there. -/
def reading : State :=
  { start [(2#8, 0x2000#64)] (zcos 0 0 0 0) (blockBytes 0#8 4#8) with
    readAnswers := [some (.delivered [0x78#8, 0x79#8, 0x7A#8, 0x7A#8, 0x79#8, 0x21#8])] }

theorem test_trap_write :
    nextHas (step (writing.withFetchWord 32 0x02010203)) (fun t =>
      t.written == [⟨1, [0x68#8, 0x65#8, 0x6C#8, 0x6C#8, 0x6F#8]⟩] && t.reg 3#8 == 5#64 && t.pc == 0x1004#64 &&
        t.flags == zcos 0 1 0 1) = true := by decide

theorem test_trap_read :
    nextHas (step (reading.withFetchWord 32 0x02000203)) (fun t =>
      bytesAt t 0x3000#64 5 == [0x78#8, 0x79#8, 0x7A#8, 0x7A#8, 0x6F#8] && t.reg 3#8 == 4#64 &&
        t.pc == 0x1004#64) = true := by decide

theorem test_trap_unknown_whole_register :
    faults 0x02010203 (start [(1#8, 0x100000000#64), (2#8, 0x2000#64)]) (.unknownTrap 0x1000#64 0x100000000) = true := by
  decide

theorem test_fetch_faults :
    faults 0x00010203 (start []) (.illegalInstruction 0x1000#64 0x00010203#32) = true ∧
    faults 0xFF000000 ({ start [] with pc := 0x1002#64 }) (.misalignedFetch 0x1002#64) = true ∧
    faults 0xFF000000 (small { start [] with pc := 0x10000#64 }) (.memoryAccessFault 0x10000#64 4 .fetch) = true := by
  decide

/-! ### Witnesses: the hypotheses of the obligations can be met, clause by clause -/

/-- The start state with all of memory and the word at `pc`. -/
def placed (w : Nat) (rs : List (Reg × Quad) := []) : State := (start rs).withFetchWord 32 w

/-- The start state with an exit cell. -/
def withCell (cell : Addr) : State := withParams (start []) { Params.default with haltExitCell := some cell }

/-- Every address exists in the start states. -/
theorem exists_of_full {s : State} (h : s.params.memValid = [⟨0, 2 ^ 64⟩]) (a : Addr) (k : Nat) : bytesExist s a k := by
  intro i _
  have : Memory.cell a i < 2 ^ 64 := Nat.mod_lt _ (by decide)
  simp only [h, inMap, List.any_cons, List.any_nil, Bool.or_false, Bool.and_eq_true, decide_eq_true_eq]
  omega

theorem accessible_of_full {s : State} (h : s.params.memValid = [⟨0, 2 ^ 64⟩]) {a : Addr} {n : Nat}
    (ha : a.toNat % n = 0) : accessible s a n := ⟨ha, exists_of_full h a n⟩

theorem exec_next {i : Instr} {s : State} {p : State → Bool} (h : nextHas (exec i s) p = true) :
    ∃ t, exec i s = .next t ∧ p t = true := exists_next h

/-- Instructions of every operand shape, a relative jump at both ends of its range included. -/
theorem witness_DecodeEncodeRoundTrip :
    (Instr.ja 0x2000000#26).wellFormed = true ∧ (Instr.jmpRel 0x1FFFFFC#26).wellFormed = true ∧
    (Instr.trap 255#8 0#8 255#8).wellFormed = true ∧ (Instr.ldsq 0x8000#16 255#8).wellFormed = true := by decide

theorem witness_DecodedInstructionReencodes :
    decodeFields 0x40#8 255#8 1#8 0#8 = .ok (.jmpReg 255#8 1#8) ∧
    unusedBytesZero (.jmpReg 255#8 1#8) 255#8 1#8 0#8 = true := by decide

/-- The third clause, at reset and at both ends of two runs of undefined opcodes. -/
theorem witness_UndefinedOpcodesAreIllegal :
    ∀ op ∈ [0x00, 0x03, 0x08, 0xE0, 0xFE], (placed (op * 2 ^ 24)).halted = none ∧ (placed (op * 2 ^ 24)).pc.toNat % 4 = 0 ∧
      bytesExist (placed (op * 2 ^ 24)) (placed (op * 2 ^ 24)).pc 4 ∧
      undefinedOpcode (Memory.byteAt (placed (op * 2 ^ 24)).mem (placed (op * 2 ^ 24)).pc.toNat).toNat = true := by
  intro op h
  exact ⟨rfl, show (0x1000#64).toNat % 4 = 0 by decide, exists_of_full rfl _ _, by revert op; decide⟩

theorem witness_UnusedOperandBytes :
    (decodeFields 0x01#8 7#8 1#8 2#8 = .ok (.haltReg 7#8) ∧
      [7#8, 1#8, 2#8].take (Instr.haltReg 7#8).format.usedBytes =
        [7#8, 255#8, 0#8].take (Instr.haltReg 7#8).format.usedBytes) ∧
    ∃ s : State, s.halted = none ∧ s.pc.toNat % 4 = 0 ∧ bytesExist s s.pc 4 ∧
      decode (Memory.readBytes s.mem s.pc 4) = .ok (.nop, []) ∧ s.params.unusedFields = .refuseNonzero ∧
      unusedBytesZero .nop (Memory.byteAt s.mem (Memory.cell s.pc 1)) (Memory.byteAt s.mem (Memory.cell s.pc 2))
        (Memory.byteAt s.mem (Memory.cell s.pc 3)) = false :=
  ⟨by decide, withParams (placed 0xFF000001) { Params.default with unusedFields := .refuseNonzero }, rfl, rfl,
    exists_of_full rfl _ _, by decide, rfl, by decide⟩

/-- Both choices of the last hypothesis. -/
theorem witness_StepRunsDecodedInstruction :
    ∀ u ∈ [UnusedFields.ignore, .refuseNonzero], ∃ s : State,
      s.halted = none ∧ s.pc.toNat % 4 = 0 ∧ bytesExist s s.pc 4 ∧
      decode (Memory.readBytes s.mem s.pc 4) = .ok (.getc 5#8, []) ∧ s.params.unusedFields = u ∧
      unusedBytesZero (.getc 5#8) (Memory.byteAt s.mem (Memory.cell s.pc 1))
        (Memory.byteAt s.mem (Memory.cell s.pc 2)) (Memory.byteAt s.mem (Memory.cell s.pc 3)) = true := by
  intro u h
  refine ⟨withParams (placed 0x60050000) { Params.default with unusedFields := u }, rfl,
    show (0x1000#64).toNat % 4 = 0 by decide, exists_of_full rfl _ _, ?_, rfl, ?_⟩ <;>
    (revert u; decide)

theorem witness_FetchChecksComeInOrder :
    ({ start [] with pc := 1#64 } : State).pc.toNat % 4 ≠ 0 ∧
    (small { start [] with pc := 0x10000#64 }).pc.toNat % 4 = 0 ∧
    ¬ bytesExist (small { start [] with pc := 0x10000#64 }) 0x10000#64 4 := by
  refine ⟨by decide, by decide, fun h => ?_⟩
  exact absurd (h 0 (by decide)) (by decide)

theorem witness_HaltedMachineStaysHalted : ({ start [] with halted := some 255#8 } : State).halted = some 255#8 := rfl

theorem witness_OnlyHaltHalts :
    (∃ t, step (placed 0x01010000 [(1#8, 0x1FF#64)]) = .next t ∧ (t.halted == some 0xFF#8) = true) ∧
    (∃ t, step (placed 0x092A0000) = .next t ∧ (t.halted == some 42#8) = true) ∧
    (placed 0x01010000 [(1#8, 0x1FF#64)]).halted = none ∧ (placed 0x092A0000).halted = none :=
  ⟨exists_next (by decide), exists_next (by decide), rfl, rfl⟩

/-- At the last four bytes of the address space. -/
theorem witness_WrittenInstructionIsFetched :
    (Instr.movbDisp 1#8 255#8 255#8).wellFormed = true ∧
    Memory.wf ({ start [] with pc := 0xFFFFFFFFFFFFFFFC#64 } : State).mem ∧
    ({ start [] with pc := 0xFFFFFFFFFFFFFFFC#64 } : State).halted = none ∧
    accessible { start [] with pc := 0xFFFFFFFFFFFFFFFC#64 } 0xFFFFFFFFFFFFFFFC#64 4 :=
  ⟨rfl, by decide, rfl, accessible_of_full rfl (by decide)⟩

/-- A launch whose image of three bytes wraps at the end of the address space. -/
def wrappingLaunch : Launch :=
  { Launch.default with loadBase := 0xFFFFFFFFFFFFFFFE#64, image := [1#8, 0#8, 3#8], initMem := [(0, 7#8), (9, 8#8)] }

theorem witness_LaunchPlacesTheImage :
    Memory.wf wrappingLaunch.initMem ∧ (∀ c ∈ wrappingLaunch.initMem, inMap wrappingLaunch.params.memValid c.1 = true) ∧
    wrappingLaunch.image.length ≤ 2 ^ 64 ∧
    bytesExist (State.launch wrappingLaunch) wrappingLaunch.loadBase wrappingLaunch.image.length :=
  ⟨by decide, by decide, by decide, exists_of_full rfl _ _⟩

/-- A step that stores, from a state that meets the invariant. -/
theorem witness_StepKeepsTheInvariant :
    memoryInvariant (placed 0x20010200 [(1#8, 5#64), (2#8, 0x2000#64)]) ∧
    ∃ t, step (placed 0x20010200 [(1#8, 5#64), (2#8, 0x2000#64)]) = .next t ∧
      (Memory.byteAt t.mem 0x2007 == 5#8) = true :=
  ⟨⟨by decide, by decide⟩, exists_next (by decide)⟩

/-- FlagsFrame, RegisterFrame, EnvironmentFrame: an instruction that writes some flags, registers and no others. -/
theorem witness_FlagsFrame_RegisterFrame_EnvironmentFrame :
    (∃ t, exec (.shldwq 1#16 3#8) (start []) = .next t ∧ (t.reg 3#8 == 1#64) = true) ∧
    (writtenFlags (.shldwq 1#16 3#8)).of = false ∧ (writtenFlags (.mulqReg 1#8 2#8 3#8)).zf = false ∧
    (writtenFlags (.mulqReg 1#8 2#8 3#8)).sf = false ∧ (writtenFlags .nop).cf = false ∧
    4#8 ∉ destinations (.shldwq 1#16 3#8) :=
  ⟨exec_next (by decide), rfl, rfl, rfl, rfl, by decide⟩

/-- What is stored to: a store, also at the last address, a `read` that delivers, a halt with and without exit cell; and
nothing: a load, a `write`. -/
theorem witness_MemoryFrame :
    (Memory.wf writing.mem ∧
      (∃ t, exec (.movbIndexed 1#8 2#8 0#8) writing = .next t ∧ (Memory.byteAt t.mem 0x2000 == 1#8) = true) ∧
      storedRange writing (.movbIndexed 1#8 2#8 0#8) = some (0x2000#64, 1)) ∧
    ((∃ t, exec (.movbDisp 1#8 255#8 0#8) writing = .next t ∧
      (Memory.byteAt t.mem 0xFFFFFFFFFFFFFFFF == 1#8) = true) ∧
      storedRange writing (.movbDisp 1#8 255#8 0#8) = some (0xFFFFFFFFFFFFFFFF#64, 1)) ∧
    (Memory.wf reading.mem ∧
      (∃ t, exec (.trap 0#8 2#8 3#8) reading = .next t ∧ (Memory.byteAt t.mem 0x3003 == 0x7A#8) = true) ∧
      storedRange reading (.trap 0#8 2#8 3#8) = some (0x3000#64, 4)) ∧
    ((∃ t, exec (.haltImm 1#8) (withCell 0xFFFF#64) = .next t ∧ (Memory.byteAt t.mem 0xFFFF == 1#8) = true) ∧
      storedRange (withCell 0xFFFF#64) (.haltImm 1#8) = some (0xFFFF#64, 1)) ∧
    ((∃ t, exec (.haltImm 1#8) writing = .next t ∧ (t.halted == some 1#8) = true) ∧
      storedRange writing (.haltImm 1#8) = none) ∧
    ((∃ t, exec (.movzbqIndexed 2#8 0#8 3#8) writing = .next t ∧ (t.reg 3#8 == 0#64) = true) ∧
      storedRange writing (.movzbqIndexed 2#8 0#8 3#8) = none) ∧
    (∃ t, exec (.trap 1#8 2#8 3#8) writing = .next t ∧ (t.reg 3#8 == 5#64) = true) ∧
    storedRange writing (.trap 1#8 2#8 3#8) = none :=
  ⟨⟨by decide, exec_next (by decide), by decide⟩, ⟨exec_next (by decide), by decide⟩,
    ⟨by decide, exec_next (by decide), by decide⟩, ⟨exec_next (by decide), by decide⟩,
    ⟨exec_next (by decide), by decide⟩, ⟨exec_next (by decide), by decide⟩, exec_next (by decide), by decide⟩

/-- An advance that wraps; a `getc`, a `read` and a `write` that wait; a halt. -/
theorem witness_PcAdvance :
    (exec .nop { start [] with pc := 0xFFFFFFFFFFFFFFFC#64 } =
      .next ({ start [] with pc := 0xFFFFFFFFFFFFFFFC#64 } : State).advance ∧ advances .nop = true ∧
      ¬ waits { start [] with pc := 0xFFFFFFFFFFFFFFFC#64 } .nop) ∧
    (exec (.getc 1#8) (start []) = .next (start []) ∧ advances (.getc 1#8) = true ∧ waits (start []) (.getc 1#8)) ∧
    ((∃ t, exec (.trap 0#8 2#8 3#8) { reading with readAnswers := [none] } = .next t ∧
        (t == { reading with readAnswers := [none] }) = true) ∧
      waits { reading with readAnswers := [none] } (.trap 0#8 2#8 3#8)) ∧
    ((∃ t, exec (.trap 1#8 2#8 3#8) { writing with writeAnswers := [none] } = .next t ∧
        (t == { writing with writeAnswers := [none] }) = true) ∧
      waits { writing with writeAnswers := [none] } (.trap 1#8 2#8 3#8)) ∧
    ∃ t, exec (.haltReg 1#8) (start []) = .next t ∧ (t.pc == 0x1000#64) = true := by
  refine ⟨⟨rfl, rfl, ?_⟩, ⟨rfl, rfl, .inl ⟨1#8, rfl, rfl⟩⟩, ⟨exec_next (by decide), ?_⟩, ⟨exec_next (by decide), ?_⟩,
    exec_next (by decide)⟩
  · rintro (⟨x, h, -⟩ | ⟨x, y, z, h, -⟩) <;> cases h
  · exact .inr ⟨0#8, 2#8, 3#8, rfl, .inl ⟨by decide, rfl⟩⟩
  · exact .inr ⟨1#8, 2#8, 3#8, rfl, .inr ⟨by decide, rfl⟩⟩

/-- An advance, a relative jump backwards across 0. -/
theorem witness_AlignedPcStaysAligned :
    ((∃ t, step (placed 0xFF000000) = .next t ∧ (t.pc == 0x1004#64) = true) ∧
      (placed 0xFF000000).pc.toNat % 4 = 0 ∧ (placed 0xFF000000).fetchInstr = .ok .nop) ∧
    (∃ t, step (placed 0x41FFFBFF) = .next t ∧ (t.pc == 0xFFFFFFFFFFFFFFFC#64) = true) ∧
    (placed 0x41FFFBFF).fetchInstr = .ok (.jmpRel 0x3FFEFFC#26) :=
  ⟨⟨exists_next (by decide), by decide, by decide⟩, exists_next (by decide), by decide⟩

/-- A plain instruction, a halt without exit cell, `jmp` with different registers, with the same under read_first, and the
`getc` that waits. -/
theorem witness_NamedInstructionsAreTotal :
    dataAccess (start []) (.addqReg 1#8 2#8 3#8) = none ∧
    (Instr.addqReg 1#8 2#8 3#8).opcode ∉ [0x02#8, 0x32#8, 0x33#8, 0x35#8, 0x3A#8, 0x3B#8, 0x3D#8] ∧
    dataAccess (start []) (.haltImm 1#8) = none ∧ (start []).params.haltExitCell = none ∧
    dataAccess (start []) (.jmpReg 1#8 2#8) = none ∧
    (Instr.jmpReg 1#8 2#8).opcode ∉ [0x02#8, 0x32#8, 0x33#8, 0x35#8, 0x3A#8, 0x3B#8, 0x3D#8] ∧
    (start []).params.jmpSameReg = .readFirst ∧ (start []).input = [] ∧ (Instr.getc 1#8).opcode = 0x60#8 := by decide

/-- Widths 1, 2, 4 and 8 at the two ends of the address space, with canonical memory. -/
theorem witness_BigEndianDatum_ReadAfterWrite :
    Memory.wf (start [] (zcos 0 0 0 0) loadBytes).mem ∧
    ∀ n ∈ [1, 2, 4, 8], accessible (start [] (zcos 0 0 0 0) loadBytes) 0#64 n ∧
      accessible (start [] (zcos 0 0 0 0) loadBytes) (BitVec.ofNat 64 (2 ^ 64 - n)) n := by
  refine ⟨by decide, fun n h => ⟨accessible_of_full rfl (by simp), accessible_of_full rfl ?_⟩⟩
  revert n; decide

/-- The first and the last place of each width inside a quad. -/
theorem witness_MixedWidths :
    (∀ n ∈ [1, 2, 4, 8], 0 % n = 0 ∧ 0 + n ≤ 8 ∧ (8 - n) % n = 0 ∧ 8 - n + n ≤ 8) ∧ Memory.wf (start []).mem ∧
    accessible (start []) 0xFFFFFFFFFFFFFFF8#64 8 :=
  ⟨by decide, by decide, accessible_of_full rfl (by decide)⟩

theorem witness_AddressForms : 2 ∈ [2, 4, 8] ∧ 4 ∈ [2, 4, 8] ∧ 8 ∈ [2, 4, 8] := by decide

/-- The start state under REGNUM_OVERFLOW = wrap256 and IDIV_OVERFLOW = wrap. -/
def wrapping (rs : List (Reg × Quad)) : State :=
  withParams (start rs) { Params.default with regnumOverflow := .wrap256, idivOverflow := .wrap }

theorem witness_MulqProduct :
    (254#8).toNat + 1 ≤ 255 ∧ (wrapping []).params.regnumOverflow = .wrap256 := by decide

theorem witness_DivqQuotientRemainder :
    ((254#8).toNat + 1 ≤ 255 ∧ (253#8).toNat + 2 ≤ 255) ∧ (wrapping []).params.regnumOverflow = .wrap256 ∧
    (start [(255#8, 1#64)]).reg 255#8 ≠ 0#64 ∧ 1#8 ≠ 0#8 := by decide

/-- -2^63 by 1 and by -2 where overflow faults, -2^63 by -1 where it wraps; the immediates -1 and 127. -/
theorem witness_IdivqTruncates :
    (254#8).toNat + 1 ≤ 255 ∧ (wrapping []).params.regnumOverflow = .wrap256 ∧
    (((start [(1#8, 1#64), (2#8, 0x8000000000000000#64)]).reg 1#8).toInt ≠ 0 ∧
      ¬ (((start [(1#8, 1#64), (2#8, 0x8000000000000000#64)]).reg 2#8).toInt = -2 ^ 63 ∧
        ((start [(1#8, 1#64), (2#8, 0x8000000000000000#64)]).reg 1#8).toInt = -1)) ∧
    (((start [(1#8, -2#64)]).reg 1#8).toInt ≠ 0 ∧
      ¬ (((start [(1#8, -2#64)]).reg 2#8).toInt = -2 ^ 63 ∧ ((start [(1#8, -2#64)]).reg 1#8).toInt = -1)) ∧
    (((wrapping [(1#8, -1#64)]).reg 1#8).toInt ≠ 0 ∧ (wrapping []).params.idivOverflow = .wrap) ∧ 255#8 ≠ 0#8 ∧
    ¬ (((start []).reg 2#8).toInt = -2 ^ 63 ∧ (127#8).toInt = -1) :=
  ⟨by decide, by decide, ⟨by decide, fun h => absurd h.2 (by decide)⟩, ⟨by decide, fun h => absurd h.2 (by decide)⟩,
    by decide, by decide, fun h => absurd h.2 (by decide)⟩

/-- Each clause: the overflowing numbers at their boundary, the divisors 0 and -1. -/
theorem witness_ArithmeticFaults :
    (start []).params.regnumOverflow = .fault ∧ 254#8 ≤ (254#8 : Byte) ∧ 254#8 ≤ (255#8 : Byte) ∧
    (wrapping []).params.regnumOverflow = .wrap256 ∧ (254#8 ≠ 255#8 ∧ (253#8 : Byte) < 254#8) ∧
    (start []).reg 1#8 = 0#64 ∧ (start []).params.idivOverflow = .fault ∧
    (start [(2#8, 0x8000000000000000#64)]).reg 2#8 = BitVec.intMin 64 ∧ (start [(1#8, -1#64)]).reg 1#8 = -1#64 ∧
    (start [(255#8, -1#64)]).reg 255#8 = -1#64 := by decide

/-- At the last register, with an odd first word, as in program P4: the constant is there and CF is 0. -/
theorem witness_ConstantInFourInstructions :
    255#8 ≠ 0#8 ∧ nextHas (execAll
        [.ldzwq 0x0123#16 255#8, .shldwq 0x4567#16 255#8, .shldwq 0x89AB#16 255#8, .shldwq 0xCDEF#16 255#8] (start []))
      (fun t => t.reg 255#8 == 0x0123456789ABCDEF#64 && t.flags.cf == false) = true := by decide

theorem witness_JumpToRegister :
    (1#8 ≠ 255#8 ∨ 1#8 = 0#8 ∨ (start []).params.jmpSameReg = .readFirst) ∧
    (withParams (start []) { Params.default with jmpSameReg := .refuse }).params.jmpSameReg = .refuse := by decide

theorem witness_ConditionalJumps_taken_and_not :
    (start [] (zcos 1 1 0 1)).flags.zf = true ∧ (start [] (zcos 1 1 0 1)).flags.cf = true ∧
    (start [] (zcos 1 1 0 1)).flags.sf ≠ (start [] (zcos 1 1 0 1)).flags.of ∧ (start []).flags.zf = false ∧
    (start []).flags.cf = false ∧ (start []).flags.sf = (start []).flags.of := by decide

/-- The compare of the vectors' row 6 (the subtraction overflows) and one with an immediate of 255. -/
theorem witness_CompareThenJump :
    (∃ x y z, Instr.subqReg 1#8 2#8 0#8 = .subqReg x y z ∧
      0x8000000000000000#64 = (start [(1#8, 1#64), (2#8, 0x8000000000000000#64)]).reg y ∧
      1#64 = (start [(1#8, 1#64), (2#8, 0x8000000000000000#64)]).reg x) ∧
    ∃ imm y z, Instr.subqImm 255#8 2#8 0#8 = .subqImm imm y z ∧ 255#64 = (start [(2#8, 255#64)]).reg y ∧
      255#64 = imm.setWidth 64 :=
  ⟨⟨1#8, 2#8, 0#8, rfl, by decide, by decide⟩, ⟨255#8, 2#8, 0#8, rfl, by decide, by decide⟩⟩

theorem witness_CallAndReturn :
    255#8 ≠ 0#8 ∧ 1#8 ≠ 255#8 ∧
    ∃ t, exec (.jmpReg 1#8 255#8) (start []) = .next t ∧ (t.reg 255#8 == 0x1004#64) = true :=
  ⟨by decide, by decide, exec_next (by decide)⟩

/-- LoadQuad, LoadZeroExtended, LoadSignExtended, StoreQuadAndLong, StoreWordAndByte: an address in order for each
address form and each width, at the end of the address space. -/
theorem witness_Loads_Stores :
    Memory.wf (start [(1#8, 0xFFFFFFFFFFFFFFF0#64), (2#8, 1#64)]).mem ∧ ∀ n ∈ [1, 2, 4, 8],
      accessible (start [(1#8, 0xFFFFFFFFFFFFFFF0#64)])
        ((start [(1#8, 0xFFFFFFFFFFFFFFF0#64)]).addrIndexed 1#8 0#8) n ∧
      accessible (start []) ((start []).addrDisp 0xF8#8 0#8) n ∧
      accessible (start [(2#8, 8#64)]) ((start [(2#8, 8#64)]).addrScaled 0#8 2 2#8) n ∧
      accessible (start [(2#8, 8#64)]) ((start [(2#8, 8#64)]).addrScaled 0#8 4 2#8) n ∧
      accessible (start [(2#8, 8#64)]) ((start [(2#8, 8#64)]).addrScaled 0#8 8 2#8) n := by
  refine ⟨by decide, fun n h => ⟨?_, ?_, ?_, ?_, ?_⟩⟩ <;>
    exact accessible_of_full rfl (by revert n; decide)

/-- A misaligned address; an aligned one whose last byte alone is missing. -/
theorem witness_DataAccessFaults :
    dataAccess (start [(1#8, 1#64)]) (.movqLoadIndexed 1#8 0#8 3#8) = some (.read, 1#64, 8) ∧ (1#64).toNat % 8 ≠ 0 ∧
    dataAccess (start []) (.movqStoreDisp 1#8 8#8 0#8) = some (.write, 8#64, 8) ∧ (8#64).toNat % 8 = 0 ∧
    ¬ bytesExist (withParams (start []) { Params.default with memValid := [⟨0, 15⟩] }) 8#64 8 := by
  refine ⟨by decide, by decide, by decide, by decide, fun h => ?_⟩
  exact absurd (h 7 (by decide)) (by decide)

/-- Without exit cell; with one that exists, the last of the small machine; with one that does not. -/
theorem witness_HaltEndsTheRun :
    (start []).params.haltExitCell = none ∧ Memory.wf (start []).mem ∧
    inMap (small (start [])).params.memValid (0xFFFF#64).toNat = true ∧
    inMap (small (start [])).params.memValid (0x10000#64).toNat = false ∧
    (withParams (start []) { Params.default with haltExitCell := some 0xFFFF#64 }).params.haltExitCell =
      some 0xFFFF#64 := by decide

theorem witness_GetcTakesOrWaits :
    (start []).input = [] ∧ ({ start [] with input := [0xFF#8] } : State).input = 0xFF#8 :: [] ∧
    (start []).params.getcUpper = .zero ∧
    (withParams (start []) { Params.default with getcUpper := .preserve }).params.getcUpper = .preserve := by decide

/-- The three answers of a `read`; a block that ends at the end of the address space. -/
theorem witness_TrapRead :
    Memory.wf reading.mem ∧ reading.params.trapTable.lookup (reading.reg 0#8).toNat = some .read ∧
    blockReadable reading (reading.reg 2#8) ∧ blockReadable reading 0xFFFFFFFFFFFFFFE8#64 ∧
    ({ reading with readAnswers := [none] } : State).readAnswer (blockAt reading 0x2000#64) = none ∧
    ({ reading with readAnswers := [some (.failed ⟨5, by decide⟩)] } : State).readAnswer (blockAt reading 0x2000#64) =
      some (.failed ⟨5, by decide⟩) ∧
    (reading.readAnswer (blockAt reading 0x2000#64) =
        some (.delivered [0x78#8, 0x79#8, 0x7A#8, 0x7A#8, 0x79#8, 0x21#8]) ∧
      4 = min (blockAt reading 0x2000#64).nbyte 6 ∧ bytesExist reading (blockAt reading 0x2000#64).buf 4) :=
  ⟨by decide, by decide, ⟨by decide, exists_of_full rfl _ _⟩, ⟨by decide, exists_of_full rfl _ _⟩, rfl, rfl,
    rfl, by decide, exists_of_full rfl _ _⟩

/-- The three answers of a `write`. -/
theorem witness_TrapWrite :
    writing.params.trapTable.lookup (writing.reg 1#8).toNat = some .write ∧ blockReadable writing (writing.reg 2#8) ∧
    bytesExist writing (blockAt writing (writing.reg 2#8)).buf (blockAt writing (writing.reg 2#8)).nbyte ∧
    (∀ data, ({ writing with writeAnswers := [none] } : State).writeAnswer (blockAt writing 0x2000#64) data = none) ∧
    (∀ data, ({ writing with writeAnswers := [some (.failed ⟨1, by decide⟩)] } : State).writeAnswer
      (blockAt writing 0x2000#64) data = some (.failed ⟨1, by decide⟩)) ∧
    (∀ data, writing.writeAnswer (blockAt writing 0x2000#64) data = some (.accepted 5)) ∧
    5 = min 5 (blockAt writing 0x2000#64).nbyte :=
  ⟨by decide, ⟨by decide, exists_of_full rfl _ _⟩, exists_of_full rfl _ _, fun _ => rfl, fun _ => rfl, fun _ => rfl,
    by decide⟩

/-- Each clause: an unknown number, an undescribed service, a misaligned block, a block whose last byte is missing, a
buffer whose third byte is missing. -/
theorem witness_TrapStops :
    (start [(1#8, 7#64)]).params.trapTable.lookup ((start [(1#8, 7#64)]).reg 1#8).toNat = none ∧
    (withParams (start []) { Params.default with trapTable := [(0, .undescribed)] }).params.trapTable.lookup 0 =
      some .undescribed ∧
    ((start [(1#8, 1#64)]).params.trapTable.lookup ((start [(1#8, 1#64)]).reg 1#8).toNat = some .write ∧
      (0x2004#64).toNat % 8 ≠ 0 ∧ (0x2000#64).toNat % 8 = 0 ∧
      ¬ bytesExist (withParams (start []) { Params.default with memValid := [⟨0, 0x2017⟩] }) 0x2000#64 24) ∧
    blockReadable (withParams reading { Params.default with memValid := [⟨0, 0x3002⟩] }) 0x2000#64 ∧
    firstMissing (withParams reading { Params.default with memValid := [⟨0, 0x3002⟩] }) (blockAt reading 0x2000#64).buf 2 ∧
    2 < min (blockAt reading 0x2000#64).nbyte 6 ∧
    firstMissing (withParams writing { Params.default with memValid := [⟨0, 0x3002⟩] }) (blockAt writing 0x2000#64).buf 2 ∧
    2 < (blockAt writing 0x2000#64).nbyte := by
  refine ⟨by decide, by decide, ⟨by decide, by decide, by decide, fun h => ?_⟩, ⟨by decide, ?_⟩, ⟨by decide, ?_⟩,
    by decide, ⟨by decide, ?_⟩, by decide⟩
  · exact absurd (h 23 (by decide)) (by decide)
  · decide
  · unfold bytesExist; decide
  · unfold bytesExist; decide


end Sys2Proof.Tests
end

section
/-! The register file (rules R12, R21, R22): what a register write does to the state as a whole. -/

open Sys2Proof Sys2Proof.Machine

namespace Sys2Proof.Machine

/-- A state with the same memory reads every byte as before. -/
theorem sameMemory_of_mem_eq {s t : State} (h : t.mem = s.mem) : sameMemory s t := fun a => by rw [h]

/-- A register write leaves all that is not registers, `pc`, flags or memory. -/
theorem setReg_sameOutside (s : State) (z : Reg) (v : Quad) : sameOutside s (s.setReg z v) := by
  simp [sameOutside]

/-- A register write as a whole: the register written (none where it is the zero register) and nothing else. -/
theorem setReg_registerResult (s : State) (z : Reg) (v : Quad) :
    registerResult s (s.setReg z v) [(z, v)] s.flags :=
  have hregs : registersAfter s (s.setReg z v) [(z, v)] := registersAfter_one s _ z v fun _ => rfl
  ⟨hregs, State.setReg_flags s z v, sameMemory_of_mem_eq (State.setReg_mem s z v), setReg_sameOutside s z v⟩

/-- Settles O22: the zero register by its two rules, any register by what a register write does as a whole. -/
theorem registerFile : Obligations.RegisterFile := fun s z v =>
  ⟨State.reg_zero s, State.setReg_zero s v, setReg_registerResult s z v, State.setReg_pc s z v⟩

end Sys2Proof.Machine
end

section
/-! What an instruction leaves as it is (rules R15, R22, R23, R26, R29, R30), said once for every instruction: a frame with
one rule per state operation, one lemma per shared operation of the meanings, and one split over the instructions. -/

open Sys2Proof Sys2Proof.Machine

namespace Sys2Proof.Machine

/-! ### The frame -/

/-- The flags `f` became `g`, and those that `fs` does not mark are as before. -/
def flagsKept (fs : FlagSet) (f g : Flags) : Prop :=
  (fs.zf = false → g.zf = f.zf) ∧ (fs.cf = false → g.cf = f.cf) ∧ (fs.of = false → g.of = f.of) ∧
    (fs.sf = false → g.sf = f.sf)

/-- Parameters as before, output and `write` data grown at their end, input and prepared answers consumed from their front. -/
def environmentKept (s t : State) : Prop :=
  t.params = s.params ∧ s.output <+: t.output ∧ s.written <+: t.written ∧ t.input <:+ s.input ∧
    t.readAnswers <:+ s.readAnswers ∧ t.writeAnswers <:+ s.writeAnswers

/-- The exit code an instruction halts the machine with, none where it is no `halt`. -/
def haltCode (s : State) : Instr → Option Byte
  | .haltReg x => some ((s.reg x).setWidth 8)
  | .haltImm imm => some imm
  | _ => none

/-- `t` may come from `s` by an instruction that halts with code `hc` (none: does not halt), writes at most the flags `fs`
and the registers `ds`, and keeps the environment. -/
structure InstrFrame (hc : Option Byte) (fs : FlagSet) (ds : List Reg) (s t : State) : Prop where
  halted : t.halted = hc.or s.halted
  flags : flagsKept fs s.flags t.flags
  regs : ∀ r, r ∉ ds → t.reg r = s.reg r
  env : environmentKept s t

/-- Only the two forms of `halt` have an exit code. -/
theorem haltCode_eq_some (s : State) (i : Instr) (c : Byte) (h : haltCode s i = some c) :
    (∃ x, i = .haltReg x ∧ c = (s.reg x).setWidth 8) ∨ i = .haltImm c := by
  unfold haltCode at h
  split at h
  · rename_i x; cases h; exact .inl ⟨x, rfl, rfl⟩
  · cases h; exact .inr rfl
  · cases h

/-! ### Which flags each flag computation keeps (the rows of rule R26) -/

theorem flagsKept_refl (fs : FlagSet) (f : Flags) : flagsKept fs f f :=
  ⟨fun _ => rfl, fun _ => rfl, fun _ => rfl, fun _ => rfl⟩

theorem flagsKept_all (f g : Flags) : flagsKept ⟨true, true, true, true⟩ f g := ⟨nofun, nofun, nofun, nofun⟩

theorem flagsKept_mulFlags (f : Flags) (a b : Quad) : flagsKept ⟨false, true, true, false⟩ f (mulFlags f a b) :=
  ⟨fun _ => rfl, nofun, nofun, fun _ => rfl⟩

theorem flagsKept_imulFlags (f : Flags) (a b : Quad) : flagsKept ⟨false, true, true, false⟩ f (imulFlags f a b) :=
  ⟨fun _ => rfl, nofun, nofun, fun _ => rfl⟩

theorem flagsKept_zeroFlag (f : Flags) (r : Quad) : flagsKept ⟨true, false, false, false⟩ f (zeroFlag f r) :=
  ⟨nofun, fun _ => rfl, fun _ => rfl, fun _ => rfl⟩

theorem flagsKept_shlFlags (f : Flags) (c : Nat) (b : Quad) : flagsKept ⟨false, true, false, false⟩ f (shlFlags f c b) :=
  ⟨fun _ => rfl, nofun, fun _ => rfl, fun _ => rfl⟩

theorem flagsKept_shldwFlags (f : Flags) (old r : Quad) :
    flagsKept ⟨true, true, false, false⟩ f (shldwFlags f old r) :=
  ⟨nofun, nofun, fun _ => rfl, fun _ => rfl⟩

/-! ### The prepared answers are consumed from their front -/

theorem State.tookReadAnswer_readAnswers_suffix (s : State) : s.tookReadAnswer.readAnswers <:+ s.readAnswers := by
  unfold State.tookReadAnswer
  split
  · rename_i hr; rw [hr]; exact List.suffix_cons ..
  · exact List.suffix_rfl

theorem State.tookWriteAnswer_writeAnswers_suffix (s : State) : s.tookWriteAnswer.writeAnswers <:+ s.writeAnswers := by
  unfold State.tookWriteAnswer
  split
  · rename_i hw; rw [hw]; exact List.suffix_cons ..
  · exact List.suffix_rfl

/-! ### One rule per state operation -/

theorem environmentKept_refl (s : State) : environmentKept s s :=
  ⟨rfl, List.prefix_rfl, List.prefix_rfl, List.suffix_rfl, List.suffix_rfl, List.suffix_rfl⟩

namespace InstrFrame

variable {hc : Option Byte} {fs : FlagSet} {ds : List Reg} {s t : State}

theorem refl (fs : FlagSet) (ds : List Reg) (s : State) : InstrFrame none fs ds s s :=
  ⟨rfl, flagsKept_refl fs s.flags, fun _ _ => rfl, environmentKept_refl s⟩

/-- Flags written from those of the state before, within the marked ones. -/
theorem setFlags (ds : List Reg) {f : Flags} (hf : flagsKept fs s.flags f) : InstrFrame none fs ds s (s.setFlags f) :=
  ⟨rfl, hf, fun _ _ => rfl, environmentKept_refl s⟩

theorem setReg (h : InstrFrame hc fs ds s t) {z : Reg} (hz : z ∈ ds) (v : Quad) :
    InstrFrame hc fs ds s (t.setReg z v) where
  halted := by simpa using h.halted
  flags := by simpa using h.flags
  regs r hr := by
    have hne : ¬ (r = z ∧ r ≠ 0#8) := fun e => hr (e.1 ▸ hz)
    rw [State.reg_setReg, if_neg hne, h.regs r hr]
  env := by simpa [environmentKept] using h.env

theorem setPc (h : InstrFrame hc fs ds s t) (a : Addr) : InstrFrame hc fs ds s (t.setPc a) :=
  ⟨h.halted, h.flags, h.regs, h.env⟩

theorem advance (h : InstrFrame hc fs ds s t) : InstrFrame hc fs ds s t.advance := h.setPc _

theorem setMem (h : InstrFrame hc fs ds s t) (m : Memory) : InstrFrame hc fs ds s { t with mem := m } :=
  ⟨h.halted, h.flags, h.regs, h.env⟩

theorem halt (h : InstrFrame none fs ds s t) (c : Byte) :
    InstrFrame (some c) fs ds s { t with halted := some c } :=
  ⟨rfl, h.flags, h.regs, h.env⟩

theorem out (h : InstrFrame hc fs ds s t) (b : Byte) : InstrFrame hc fs ds s (t.out b) :=
  have ⟨hp, ho, henv⟩ := h.env
  ⟨h.halted, h.flags, h.regs, hp, ho.trans (List.prefix_append ..), henv⟩

theorem setWritten (h : InstrFrame hc fs ds s t) {ws : List WriteRecord} (hw : s.written <+: ws) :
    InstrFrame hc fs ds s { t with written := ws } :=
  have ⟨hp, ho, _, henv⟩ := h.env
  ⟨h.halted, h.flags, h.regs, hp, ho, hw, henv⟩

theorem setInput (h : InstrFrame hc fs ds s t) {bs : List Byte} (hi : bs <:+ s.input) :
    InstrFrame hc fs ds s { t with input := bs } :=
  have ⟨hp, ho, hw, _, henv⟩ := h.env
  ⟨h.halted, h.flags, h.regs, hp, ho, hw, hi, henv⟩

theorem tookGetcBits (h : InstrFrame hc fs ds s t) : InstrFrame hc fs ds s t.tookGetcBits where
  halted := by simpa using h.halted
  flags := by simpa using h.flags
  regs r hr := by simpa using h.regs r hr
  env := by simpa [environmentKept] using h.env

theorem tookReadAnswer (h : InstrFrame hc fs ds s t) : InstrFrame hc fs ds s t.tookReadAnswer where
  halted := by simpa using h.halted
  flags := by simpa using h.flags
  regs r hr := by simpa using h.regs r hr
  env := by
    obtain ⟨hp, ho, hw, hi, hra, hwa⟩ := h.env
    have hra' := t.tookReadAnswer_readAnswers_suffix.trans hra
    simp [environmentKept, hp, ho, hw, hi, hra', hwa]

theorem tookWriteAnswer (h : InstrFrame hc fs ds s t) : InstrFrame hc fs ds s t.tookWriteAnswer where
  halted := by simpa using h.halted
  flags := by simpa using h.flags
  regs r hr := by simpa using h.regs r hr
  env := by
    obtain ⟨hp, ho, hw, hi, hra, hwa⟩ := h.env
    have hwa' := t.tookWriteAnswer_writeAnswers_suffix.trans hwa
    simp [environmentKept, hp, ho, hw, hi, hra, hwa']

end InstrFrame

/-! ### One lemma per shared operation -/

variable {s t : State} {fs : FlagSet}

/-- A value written to register `z`, without flags. -/
theorem plainResult_frame {z : Reg} {v : Quad} (h : Host.Outcome.next (s.setReg z v).advance = (.next t : Result)) :
    InstrFrame none fs [z] s t := by
  cases h
  exact ((InstrFrame.refl fs [z] s).setReg (by simp) v).advance

/-- A value written to register `z`, with the flags `f`. -/
theorem flaggedResult_frame {f : Flags} {z : Reg} {v : Quad} (hf : flagsKept fs s.flags f)
    (h : Host.Outcome.next ((s.setFlags f).setReg z v).advance = (.next t : Result)) : InstrFrame none fs [z] s t := by
  cases h
  exact ((InstrFrame.setFlags [z] hf).setReg (by simp) v).advance

theorem load_frame {a : Addr} {n : Nat} {e : Nat → Quad} {z : Reg} (h : s.load a n e z = .next t) :
    InstrFrame none fs [z] s t := by
  obtain ⟨-, ht⟩ := load_cases _ _ _ _ _ _ h
  exact plainResult_frame (congrArg _ ht.symm)

theorem store_frame {a : Addr} {n : Nat} {x : Reg} {ds : List Reg} (h : s.store a n x = .next t) :
    InstrFrame none fs ds s t := by
  obtain ⟨-, rfl⟩ := store_cases _ _ _ _ _ h
  exact ((InstrFrame.refl fs ds s).setMem _).advance

theorem mulBy_frame {w : BitVec 32} {a : Quad} {y z : Reg} (h : s.mulBy w a y z = .next t) :
    InstrFrame none ⟨false, true, true, false⟩ [z, z + 1#8] s t := by
  obtain ⟨z1, hz, rfl⟩ := mulBy_cases _ _ _ _ _ _ h
  obtain rfl := regPlus_eq _ _ _ _ hz
  exact (((InstrFrame.setFlags _ (flagsKept_mulFlags ..)).setReg (by simp) _).setReg (by simp) _).advance

theorem divBy_frame {w : BitVec 32} {a : Quad} {y z : Reg} (h : s.divBy w a y z = .next t) :
    InstrFrame none fs [z, z + 1#8, z + 2#8] s t := by
  obtain ⟨_, z1, z2, -, hz1, hz2, -, _, _, rfl, -, -⟩ := divBy_cases _ _ _ _ _ _ h
  obtain rfl := regPlus_eq _ _ _ _ hz1
  obtain rfl := regPlus_eq _ _ _ _ hz2
  exact ((((InstrFrame.refl fs _ s).setReg (by simp) _).setReg (by simp) _).setReg (by simp) _).advance

theorem idivBy_frame {w : BitVec 32} {a : Quad} {y z : Reg} (h : s.idivBy w a y z = .next t) :
    InstrFrame none fs [z, z + 1#8] s t := by
  obtain ⟨z1, hz, -, -, rfl⟩ := idivBy_cases _ _ _ _ _ _ h
  obtain rfl := regPlus_eq _ _ _ _ hz
  exact (((InstrFrame.refl fs _ s).setReg (by simp) _).setReg (by simp) _).advance

theorem jumpIf_frame {c : Bool} {rel : BitVec 26} {ds : List Reg} (h : s.jumpIf c rel = .next t) :
    InstrFrame none fs ds s t := by
  rw [jumpIf_eq] at h
  cases h
  exact (InstrFrame.refl fs ds s).setPc _

theorem execJmpReg_frame {x y : Reg} (h : execJmpReg x y s = .next t) : InstrFrame none fs [y] s t := by
  obtain rfl := execJmpReg_cases _ _ _ _ h
  exact ((InstrFrame.refl fs [y] s).setReg (by simp) _).setPc _

theorem haltWith_frame {c : Byte} {ds : List Reg} (h : s.haltWith c = .next t) : InstrFrame (some c) fs ds s t := by
  rcases haltWith_cases _ _ _ h with ⟨-, rfl⟩ | ⟨_, -, -, rfl⟩
  · exact (InstrFrame.refl fs ds s).halt c
  · exact ((InstrFrame.refl fs ds s).halt c).setMem _

theorem execGetc_frame {x : Reg} (h : execGetc x s = .next t) : InstrFrame none fs [x] s t := by
  rcases execGetc_cases _ _ _ h with ⟨-, rfl⟩ | ⟨b, rest, hi, rfl⟩
  · exact InstrFrame.refl ..
  · have hrest : rest <:+ s.input := hi ▸ List.suffix_cons b rest
    exact (((InstrFrame.refl fs [x] s).tookGetcBits.setInput hrest).setReg (by simp) _).advance

theorem serveRead_frame {req : Request} {z : Reg} (h : s.serveRead req z = .next t) : InstrFrame none fs [z] s t := by
  have htook := (InstrFrame.refl fs [z] s).tookReadAnswer
  rcases serveRead_cases _ _ _ _ h with ⟨-, rfl⟩ | ⟨e, -, rfl⟩ | ⟨bytes, bs, -, -, -, rfl⟩
  · exact InstrFrame.refl ..
  · exact (htook.setReg (by simp) _).advance
  · exact ((htook.setMem _).setReg (by simp) _).advance

theorem serveWrite_frame {req : Request} {z : Reg} (h : s.serveWrite req z = .next t) : InstrFrame none fs [z] s t := by
  have htook := (InstrFrame.refl fs [z] s).tookWriteAnswer
  obtain ⟨-, ⟨-, rfl⟩ | ⟨e, -, rfl⟩ | ⟨count, k, -, -, rfl⟩⟩ := serveWrite_cases _ _ _ _ h
  · exact InstrFrame.refl ..
  · exact (htook.setReg (by simp) _).advance
  · exact ((htook.setWritten (List.prefix_append ..)).setReg (by simp) _).advance

theorem execTrap_frame {x y z : Reg} (h : execTrap x y z s = .next t) : InstrFrame none fs [z] s t := by
  obtain ⟨req, -, ⟨-, hread⟩ | ⟨-, hwrite⟩⟩ := execTrap_cases _ _ _ _ _ h
  · exact serveRead_frame hread
  · exact serveWrite_frame hwrite

theorem out_frame {b : Byte} {ds : List Reg} (h : Host.Outcome.next (s.out b).advance = (.next t : Result)) :
    InstrFrame none fs ds s t := by
  cases h
  exact ((InstrFrame.refl fs ds s).out b).advance

/-! ### Every instruction -/

/-- Every instruction stays in the frame of its own exit code, flag writers and destinations. -/
theorem exec_frame (i : Instr) (s t : State) (h : exec i s = .next t) :
    InstrFrame (haltCode s i) (writtenFlags i) (destinations i) s t := by
  cases i with
  | haltReg | haltImm => exact haltWith_frame h
  | trap => exact execTrap_frame h
  | getc => exact execGetc_frame h
  | putcReg | putcImm => exact out_frame h
  | nop => cases h; exact (InstrFrame.refl ..).advance
  | movqLoadIndexed | movqLoadDisp | movqLoadScaled2 | movqLoadScaled4 | movqLoadScaled8
  | movzlqIndexed | movzlqDisp | movzlqScaled2 | movzlqScaled4 | movzlqScaled8
  | movzwqIndexed | movzwqDisp | movzwqScaled2 | movzwqScaled4 | movzwqScaled8
  | movzbqIndexed | movzbqDisp | movzbqScaled2 | movzbqScaled4 | movzbqScaled8
  | movslqIndexed | movslqDisp | movslqScaled2 | movslqScaled4 | movslqScaled8
  | movswqIndexed | movswqDisp | movswqScaled2 | movswqScaled4 | movswqScaled8
  | movsbqIndexed | movsbqDisp | movsbqScaled2 | movsbqScaled4 | movsbqScaled8 => exact load_frame h
  | movqStoreIndexed | movqStoreDisp | movqStoreScaled2 | movqStoreScaled4 | movqStoreScaled8
  | movlIndexed | movlDisp | movlScaled2 | movlScaled4 | movlScaled8
  | movwIndexed | movwDisp | movwScaled2 | movwScaled4 | movwScaled8
  | movbIndexed | movbDisp | movbScaled2 | movbScaled4 | movbScaled8 => exact store_frame h
  | addqReg | addqImm | subqReg | subqImm => exact flaggedResult_frame (flagsKept_all ..) h
  | mulqReg | mulqImm => exact mulBy_frame h
  | imulqReg | imulqImm => exact flaggedResult_frame (flagsKept_imulFlags ..) h
  | divqReg | divqImm => exact divBy_frame h
  | idivqReg | idivqImm => exact idivBy_frame h
  | orq | andq | notq | ldzwq | ldsq => exact flaggedResult_frame (flagsKept_zeroFlag ..) h
  | shlqReg | shlqImm => exact flaggedResult_frame (flagsKept_shlFlags ..) h
  | shrqReg | shrqImm | sarqReg | sarqImm => exact plainResult_frame h
  | shldwq => exact flaggedResult_frame (flagsKept_shldwFlags ..) h
  | jmpReg => exact execJmpReg_frame h
  | jmpRel => cases h; exact (InstrFrame.refl ..).setPc _
  | je | jne | jl | jge | jle | jg | jb | jae | jna | ja => exact jumpIf_frame h

end Sys2Proof.Machine
end

section
/-! The state's own obligations: the invariant, the halted machine, the frames, reset. -/

open Sys2Proof Sys2Proof.Machine

namespace Sys2Proof.Machine

/-- Writing bytes that exist lists only bytes that exist. -/
theorem inMap_of_mem_writeBytes (rs : List Region) (m : Memory) (a : Addr) (bs : List Byte)
    (hm : ∀ c ∈ m, inMap rs c.1 = true) (hbs : ∀ i, i < bs.length → inMap rs (Memory.cell a i) = true) :
    ∀ c ∈ Memory.writeBytes m a bs, inMap rs c.1 = true := by
  intro c hc
  rcases Memory.mem_writeBytes bs m a c hc with ⟨i, hi, hcell⟩ | hold
  · rw [hcell]; exact hbs i hi
  · exact hm c hold

/-- The invariant survives every change of memory of the shape a step makes. -/
theorem memoryInvariant_of_memoryStep (s t : State) (hs : memoryInvariant s) (h : memoryStep s t) :
    memoryInvariant t := by
  obtain ⟨hwf, hmap⟩ := hs
  obtain ⟨hparams, hmem | ⟨a, bs, hmem, hbs⟩⟩ := h <;> rw [memoryInvariant, hmem, hparams]
  · exact ⟨hwf, hmap⟩
  · exact ⟨Memory.wf_writeBytes bs s.mem a hwf, inMap_of_mem_writeBytes _ s.mem a bs hmap hbs⟩

/-- A step changes memory in the shape of `memoryStep`, a halted machine's step included. -/
theorem step_memoryStep (s t : State) (h : step s = .next t) : memoryStep s t := by
  rcases step_cases s t h with ⟨_, -, rfl⟩ | ⟨-, i, -, hexec⟩
  · exact memoryStep_same _ _ rfl rfl
  · exact exec_memoryStep i s t hexec

/-- Settles O14: a step writes at most bytes that exist, by an operation that keeps the canonical form. -/
theorem stepKeepsTheInvariant : Obligations.StepKeepsTheInvariant := fun s t hs h =>
  have hstep := step_memoryStep s t h
  ⟨memoryInvariant_of_memoryStep s t hs hstep, hstep.1⟩

/-- A run whose first step answers a next state goes on from there. -/
theorem run_succ_of_step (M : Host.Core) (n : Nat) (s t : M.State) (h : M.step s = .next t) :
    M.run (n + 1) s = M.run n t := by
  rw [Host.Core.run, h]

/-- Settles O8, by induction on the number of steps. -/
theorem haltedMachineStaysHalted : Obligations.HaltedMachineStaysHalted := by
  intro s c n hc
  induction n with
  | zero => rfl
  | succ n ih => exact (run_succ_of_step Sys2Proof.core n s s (step_halted s c hc)).trans ih

/-- Settles O9: in its frame an instruction halts a running machine only by its own exit code, and only `halt` has one. -/
theorem onlyHaltHalts : Obligations.OnlyHaltHalts := by
  intro s t c h hrun hc
  rcases step_cases s t h with ⟨d, hd, -⟩ | ⟨-, i, hfetch, hexec⟩
  · rw [hrun] at hd; cases hd
  · have hcode : haltCode s i = some c := by
      have hhalted := (exec_frame i s t hexec).halted
      rwa [hrun, hc, Option.or_none, eq_comm] at hhalted
    rcases haltCode_eq_some s i c hcode with ⟨x, rfl, rfl⟩ | rfl
    · exact .inl ⟨x, hfetch, BitVec.setWidth_eq_extractLsb' (by decide)⟩
    · exact .inr hfetch

/-- Settles O15: the flag part of the instruction's frame. -/
theorem flagsFrame : Obligations.FlagsFrame := fun i s t h => (exec_frame i s t h).flags

/-- Settles O16: the register part of the instruction's frame. -/
theorem registerFrame : Obligations.RegisterFrame := fun i s t h => (exec_frame i s t h).regs

/-- Settles O18: the environment part of the instruction's frame. -/
theorem environmentFrame : Obligations.EnvironmentFrame := fun i s t h => (exec_frame i s t h).env

/-- Every register reads 0 at reset. -/
theorem reset_reg (r : Reg) : State.reset.reg r = 0#64 := by
  have hlt := r.isLt
  by_cases hr : r = 0#8
  · subst hr; rfl
  · have hpos : r.toNat ≠ 0 := fun h => hr (BitVec.eq_of_toNat_eq h)
    have hidx : r.toNat - 1 < 255 := by omega
    simp [State.reg, State.reset, hidx]

/-- Settles O11: field by field, with no image to place. -/
theorem resetIsTheDefaultLaunch : Obligations.ResetIsTheDefaultLaunch :=
  ⟨rfl, rfl, rfl, rfl, rfl, rfl, rfl, reset_reg, fun _ => rfl⟩

/-- Settles O12: reset lists no byte. -/
theorem invariantHoldsAtReset : Obligations.InvariantHoldsAtReset :=
  ⟨reset_mem_wf, fun _ h => absurd h List.not_mem_nil⟩

end Sys2Proof.Machine
end

section
/-! Big-endian data (rules R41, R42, R45): the value of a run of bytes, of a part of it, and of bytes cut out of a quad. -/

open Sys2Proof Sys2Proof.Machine

namespace Sys2Proof.Machine

/-! ### The value of bytes in address order -/

theorem bigEndianValue_append (bs cs : List Byte) :
    bigEndianValue (bs ++ cs) = bigEndianValue bs * 256 ^ cs.length + bigEndianValue cs := by
  rw [bigEndianValue, List.foldl_append, foldl_bigEndian]
  rfl

theorem bigEndianValue_singleton (b : Byte) : bigEndianValue [b] = b.toNat := by simp [bigEndianValue]

/-- `k` bytes make a value of `k` digits to the base 256. -/
theorem bigEndianValue_lt (bs : List Byte) : bigEndianValue bs < 256 ^ bs.length := by
  induction bs using List.reverseRecOn with
  | nil => simp [bigEndianValue]
  | append_singleton bs b ih =>
    have hb : b.toNat < 256 := b.isLt
    rw [bigEndianValue_append, bigEndianValue_singleton, List.length_append, pow_add]
    simp only [List.length_singleton, pow_one]
    omega

/-- The `n` bytes of `v` from place `p` on, most significant first, have the value of these bits of `v`: one byte more at
the low end is one digit more. -/
theorem bigEndianValue_extractBytes (v : Quad) (n p : Nat) :
    bigEndianValue ((List.range n).map fun i => v.extractLsb' (8 * (p + (n - 1 - i))) 8) =
      v.toNat / 256 ^ p % 256 ^ n := by
  induction n generalizing p with
  | zero => simp [bigEndianValue, Nat.mod_one]
  | succ n ih =>
    have hplace : ∀ i ∈ List.range n, v.extractLsb' (8 * (p + (n + 1 - 1 - i))) 8 =
        v.extractLsb' (8 * (p + 1 + (n - 1 - i))) 8 := by
      intro i hi
      rw [List.mem_range] at hi
      congr 1
      omega
    have hlow : (v.extractLsb' (8 * p) 8).toNat = v.toNat / 256 ^ p % 256 := by
      rw [BitVec.extractLsb'_toNat, Nat.shiftRight_eq_div_pow, Nat.pow_mul]
    rw [List.range_succ, List.map_append, List.map_congr_left hplace, bigEndianValue_append, ih (p + 1)]
    simp only [List.map_singleton, List.length_singleton, bigEndianValue_singleton, Nat.add_sub_cancel, Nat.sub_self,
      Nat.add_zero, hlow]
    rw [Nat.pow_succ 256 p, ← Nat.div_div_eq_div_mul, Nat.pow_succ' (n := n), Nat.mod_mul]
    ring

/-! ### The datum at an address -/

/-- The address `i` bytes after `a + k` is `k + i` bytes after `a`. -/
theorem Memory.cell_add (a : Addr) (k i : Nat) : Memory.cell (a + BitVec.ofNat 64 k) i = Memory.cell a (k + i) := by
  simp [Memory.cell, BitVec.toNat_add, Nat.add_assoc]

theorem Memory.readBytes_add (m : Memory) (a : Addr) (n k : Nat) :
    Memory.readBytes m a (n + k) = Memory.readBytes m a n ++ Memory.readBytes m (a + BitVec.ofNat 64 n) k := by
  simp [Memory.readBytes, List.range_add, Memory.cell_add]

theorem datum_lt (m : Memory) (a : Addr) (n : Nat) : datum m a n < 256 ^ n := by
  rw [← bigEndianValue_readBytes]
  simpa using bigEndianValue_lt (Memory.readBytes m a n)

/-- A datum is its first `n` bytes above its last `k`. -/
theorem datum_add (m : Memory) (a : Addr) (n k : Nat) :
    datum m a (n + k) = datum m a n * 256 ^ k + datum m (a + BitVec.ofNat 64 n) k := by
  simp only [← bigEndianValue_readBytes, Memory.readBytes_add, bigEndianValue_append, Memory.length_readBytes]

/-- The first `n` bytes of a datum are its high digits. -/
theorem datum_high (m : Memory) (a : Addr) (n k : Nat) : datum m a n = datum m a (n + k) / 256 ^ k := by
  rw [datum_add, Nat.mul_comm, Nat.mul_add_div (by positivity), Nat.div_eq_of_lt (datum_lt ..), Nat.add_zero]

/-- The last `k` bytes of a datum are its low digits. -/
theorem datum_low (m : Memory) (a : Addr) (n k : Nat) :
    datum m (a + BitVec.ofNat 64 n) k = datum m a (n + k) % 256 ^ k := by
  rw [datum_add, Nat.mul_add_mod_of_lt (datum_lt ..)]

/-- Where `n` bytes of memory are the bytes of `v` from place `p` on, the datum there is these bits of `v`. -/
theorem datum_of_extractBytes (m : Memory) (a : Addr) (n p : Nat) (v : Quad)
    (h : ∀ i, i < n → Memory.byteAt m (Memory.cell a i) = v.extractLsb' (8 * (p + (n - 1 - i))) 8) :
    datum m a n = v.toNat / 256 ^ p % 256 ^ n := by
  rw [← bigEndianValue_readBytes, ← bigEndianValue_extractBytes, Memory.readBytes]
  exact congrArg _ (List.map_congr_left fun i hi => h i (List.mem_range.1 hi))

/-- Inside a stored datum, `n` bytes at `k` bytes into it are the bits of their place. -/
theorem storedAt_datum {s t : State} {a : Addr} {w : Nat} {v : Quad} (h : storedAt s t a w v) (k n : Nat)
    (hkn : k + n ≤ w) : datum t.mem (a + BitVec.ofNat 64 k) n = v.toNat / 256 ^ (w - k - n) % 256 ^ n := by
  obtain ⟨hown, -⟩ := h
  refine datum_of_extractBytes _ _ _ _ _ fun i hi => ?_
  rw [Memory.cell_add, hown (k + i) (by omega)]
  congr 2
  omega

/-! ### The memory primitives -/

/-- `MemRead` in order answers the datum. -/
theorem memRead_eq_datum (s : State) (a : Addr) (n : Nat) (h : accessible s a n) :
    s.memRead a n = .ok (datum s.mem a n) := by
  rw [memRead_ok s a n h, bigEndianValue_readBytes]

/-- `MemWrite` in order, as a whole: it completes, the datum is stored, memory is canonical again, and what can be accessed
is as before. -/
theorem memWrite_storedAt (s : State) (a : Addr) (n : Nat) (v : Quad) (hn : n ≤ 2 ^ 64) (hm : Memory.wf s.mem)
    (h : accessible s a n) :
    ∃ t, s.memWrite a n v = .ok t ∧ storedAt s t a n v ∧ Memory.wf t.mem ∧ t.params = s.params :=
  ⟨_, memWrite_ok s a n v h, storedAt_writeBytes s _ a n v hn hm rfl, Memory.wf_writeBytes _ _ _ hm, rfl⟩

theorem accessible_congr {s t : State} (h : t.params = s.params) (a : Addr) (n : Nat) :
    accessible t a n ↔ accessible s a n := by
  rw [accessible, accessible, h]

/-- Inside an access in order, a narrower one at a multiple of its own width is in order (rule R56). -/
theorem accessible_inside {s : State} {a : Addr} {w : Nat} (h : accessible s a w) (n k : Nat) (hw : w ∣ 2 ^ 64)
    (hn : n ∣ w) (hk : k % n = 0) (hkn : k + n ≤ w) : accessible s (a + BitVec.ofNat 64 k) n := by
  obtain ⟨halign, hexist⟩ := h
  refine ⟨?_, fun i hi => ?_⟩
  · have ha : n ∣ a.toNat := hn.trans (Nat.dvd_of_mod_eq_zero halign)
    have hsum : n ∣ a.toNat + k := Nat.dvd_add ha (Nat.dvd_of_mod_eq_zero hk)
    rw [BitVec.toNat_add, BitVec.toNat_ofNat, Nat.add_mod_mod]
    exact Nat.mod_eq_zero_of_dvd ((Nat.dvd_mod_iff (hn.trans hw)).2 hsum)
  · rw [Memory.cell_add]
    exact hexist (k + i) (by omega)

end Sys2Proof.Machine
end

section
/-! The obligations about data in memory and about addresses (rules R41, R45, R47 to R49, R53, R56). -/

open Sys2Proof Sys2Proof.Machine

namespace Sys2Proof.Machine

/-- Settles O23: the reads are datums, and each narrower datum is the high or the low digits of the quad. -/
theorem bigEndianDatum : Obligations.BigEndianDatum :=
  ⟨memRead_eq_datum, fun m a =>
    ⟨datum_high m a 1 7, datum_high m a 2 6, datum_high m a 4 4, datum_low m a 4 4⟩⟩

/-- Settles O24: the read is the whole of what was stored. -/
theorem readAfterWrite : Obligations.ReadAfterWrite := by
  intro s a n v hn hm ha
  have hn8 : n ≤ 8 := by simp only [List.mem_cons, List.not_mem_nil, or_false] at hn; omega
  obtain ⟨t, hwrite, hstored, hwf, hparams⟩ := memWrite_storedAt s a n v (by omega) hm ha
  have hdatum : datum t.mem a n = v.toNat % 256 ^ n := by simpa using storedAt_datum hstored 0 n (by omega)
  have hread := memRead_eq_datum t a n ((accessible_congr hparams a n).2 ha)
  exact ⟨t, hwrite, hdatum ▸ hread, hstored, hwf⟩

/-- The four widths of rule R44 divide the greatest of them. -/
theorem widths_dvd_eight : ∀ n ∈ [1, 2, 4, 8], n ∣ 8 := by decide

/-- Settles O25: a narrower access inside the quad is in order, and its bytes are among those stored. -/
theorem mixedWidths : Obligations.MixedWidths := by
  intro s a n k v hn hk hkn hm ha
  have hdvd : n ∣ 8 := widths_dvd_eight n hn
  obtain ⟨t, hwrite, hstored, -, hparams⟩ := memWrite_storedAt s a 8 v (by decide) hm ha
  have hinside := accessible_inside ((accessible_congr hparams a 8).2 ha) n k (by decide) hdvd hk hkn
  exact ⟨t, hwrite, storedAt_datum hstored k n hkn ▸ memRead_eq_datum t _ n hinside⟩

/-- The pattern of an integer has its value modulo 2^64 (rule R11). -/
theorem toNat_pat64 (n : Int) : ((pat64 n).toNat : Int) = n % 2 ^ 64 := by
  rw [pat64, BitVec.toNat_ofInt, Int.toNat_of_nonneg (Int.emod_nonneg n (by decide))]
  rfl

theorem toNat_pat64_natCast (n : Nat) : (pat64 n).toNat = n % 2 ^ 64 := by exact_mod_cast toNat_pat64 n

/-- A signed byte is from -128 to 127 (rule R49). -/
theorem toInt_byte_bounds (b : Byte) : -128 ≤ b.toInt ∧ b.toInt ≤ 127 :=
  ⟨BitVec.le_toInt b, Int.le_of_lt_add_one (BitVec.toInt_lt (x := b))⟩

/-- Settles O26: each address is the pattern of its rule's sum, a natural number for the forms with two registers. -/
theorem addressForms : Obligations.AddressForms := by
  intro s base offset disp
  obtain ⟨hlow, hhigh⟩ := toInt_byte_bounds disp
  refine ⟨?_, toNat_pat64 _, hlow, hhigh, fun scale _ => ?_⟩
  · exact_mod_cast toNat_pat64_natCast ((s.reg base).toNat + (s.reg offset).toNat)
  · exact_mod_cast toNat_pat64_natCast ((s.reg base).toNat + scale * (s.reg offset).toNat)

end Sys2Proof.Machine
end

section
/-! What an instruction does to memory: the access of a load or a store, its faults (rules R43 to R45, R301, R302), and the
bytes that an instruction leaves as they are (rules R46, R240, R270, R271, R282, R283). -/

open Sys2Proof Sys2Proof.Machine

namespace Sys2Proof.Machine

/-! ### Loads and stores by their access -/

/-- An instruction with a data access is a load from its address or a store to it, by the kind of the access. -/
theorem exec_of_dataAccess {i : Instr} {s : State} {kind : AccessKind} {a : Addr} {n : Nat}
    (h : dataAccess s i = some (kind, a, n)) :
    (kind = .read ∧ ∃ extend z, exec i s = s.load a n extend z) ∨ (kind = .write ∧ ∃ x, exec i s = s.store a n x) := by
  cases i with
  | movqLoadIndexed | movqLoadDisp | movqLoadScaled2 | movqLoadScaled4 | movqLoadScaled8
  | movzlqIndexed | movzlqDisp | movzlqScaled2 | movzlqScaled4 | movzlqScaled8
  | movzwqIndexed | movzwqDisp | movzwqScaled2 | movzwqScaled4 | movzwqScaled8
  | movzbqIndexed | movzbqDisp | movzbqScaled2 | movzbqScaled4 | movzbqScaled8
  | movslqIndexed | movslqDisp | movslqScaled2 | movslqScaled4 | movslqScaled8
  | movswqIndexed | movswqDisp | movswqScaled2 | movswqScaled4 | movswqScaled8
  | movsbqIndexed | movsbqDisp | movsbqScaled2 | movsbqScaled4 | movsbqScaled8 =>
    cases h; exact .inl ⟨rfl, _, _, rfl⟩
  | movqStoreIndexed | movqStoreDisp | movqStoreScaled2 | movqStoreScaled4 | movqStoreScaled8
  | movlIndexed | movlDisp | movlScaled2 | movlScaled4 | movlScaled8
  | movwIndexed | movwDisp | movwScaled2 | movwScaled4 | movwScaled8
  | movbIndexed | movbDisp | movbScaled2 | movbScaled4 | movbScaled8 =>
    cases h; exact .inr ⟨rfl, _, rfl⟩
  | _ => cases h

theorem load_fault {s : State} {a : Addr} {n : Nat} {f : Fault} (h : s.checkAccess a n .read = .error f)
    (extend : Nat → Quad) (z : Reg) : s.load a n extend z = .fault f := by
  simp [State.load, State.memRead, h, raise]

theorem store_fault {s : State} {a : Addr} {n : Nat} {f : Fault} (h : s.checkAccess a n .write = .error f) (x : Reg) :
    s.store a n x = .fault f := by
  simp [State.store, State.memWrite, h, raise]

/-- What the check of its access answers, an instruction faults with. -/
theorem exec_fault_of_checkAccess {i : Instr} {s : State} {kind : AccessKind} {a : Addr} {n : Nat} {f : Fault}
    (haccess : dataAccess s i = some (kind, a, n)) (hcheck : s.checkAccess a n kind = .error f) :
    exec i s = .fault f := by
  rcases exec_of_dataAccess haccess with ⟨rfl, extend, z, hload⟩ | ⟨rfl, x, hstore⟩
  · rw [hload, load_fault hcheck]
  · rw [hstore, store_fault hcheck]

/-- Settles O51: the two failing answers of the check, in its order. -/
theorem dataAccessFaults : Obligations.DataAccessFaults := fun _ s kind a n haccess =>
  ⟨fun hmis => exec_fault_of_checkAccess haccess (checkAccess_misaligned s a n kind hmis),
    fun halign hmissing => exec_fault_of_checkAccess haccess (checkAccess_invalid s a n kind halign hmissing)⟩

/-! ### The bytes an instruction leaves as they are -/

/-- Memory changes at most inside the range `r`. -/
def changesOnlyIn (r : Option (Addr × Nat)) (s t : State) : Prop :=
  ∀ k : Nat, (∀ (a : Addr) (n : Nat), r = some (a, n) → ∀ j, j < n → k ≠ Memory.cell a j) →
    Memory.byteAt t.mem k = Memory.byteAt s.mem k

theorem changesOnlyIn_of_mem_eq {s t : State} (r : Option (Addr × Nat)) (h : t.mem = s.mem) : changesOnlyIn r s t :=
  fun k _ => sameMemory_of_mem_eq h k

/-- Bytes written to canonical memory change only their own addresses. -/
theorem changesOnlyIn_writeBytes {s t : State} {a : Addr} {bs : List Byte} {n : Nat} (hm : Memory.wf s.mem)
    (hn : bs.length = n) (h : t.mem = Memory.writeBytes s.mem a bs) : changesOnlyIn (some (a, n)) s t := by
  intro k hk
  rw [h, Memory.byteAt_writeBytes_other bs s.mem a k hm.1 fun j hj => hk a n rfl j (hn ▸ hj)]

theorem load_mem {s t : State} {a : Addr} {n : Nat} {extend : Nat → Quad} {z : Reg}
    (h : s.load a n extend z = .next t) : t.mem = s.mem := by
  obtain ⟨-, rfl⟩ := load_cases _ _ _ _ _ _ h
  simp

theorem store_changesOnlyIn {s t : State} {a : Addr} {n : Nat} {x : Reg} (hm : Memory.wf s.mem)
    (h : s.store a n x = .next t) : changesOnlyIn (some (a, n)) s t := by
  obtain ⟨-, rfl⟩ := store_cases _ _ _ _ _ h
  exact changesOnlyIn_writeBytes hm (length_bigEndianBytes n (s.reg x)) rfl

theorem mulBy_mem {s t : State} {w : BitVec 32} {a : Quad} {y z : Reg} (h : s.mulBy w a y z = .next t) :
    t.mem = s.mem := by
  obtain ⟨_, -, rfl⟩ := mulBy_cases _ _ _ _ _ _ h
  simp

theorem divBy_mem {s t : State} {w : BitVec 32} {a : Quad} {y z : Reg} (h : s.divBy w a y z = .next t) :
    t.mem = s.mem := by
  obtain ⟨_, _, _, -, -, -, -, _, _, rfl, -, -⟩ := divBy_cases _ _ _ _ _ _ h
  simp

theorem idivBy_mem {s t : State} {w : BitVec 32} {a : Quad} {y z : Reg} (h : s.idivBy w a y z = .next t) :
    t.mem = s.mem := by
  obtain ⟨_, -, -, -, rfl⟩ := idivBy_cases _ _ _ _ _ _ h
  simp

/-- A register write and the advance leave memory. -/
theorem plainResult_mem {s t : State} {z : Reg} {v : Quad}
    (h : Host.Outcome.next (s.setReg z v).advance = (.next t : Result)) : t.mem = s.mem := by
  cases h
  simp

theorem flaggedResult_mem {s t : State} {f : Flags} {z : Reg} {v : Quad}
    (h : Host.Outcome.next ((s.setFlags f).setReg z v).advance = (.next t : Result)) : t.mem = s.mem :=
  plainResult_mem (s := s.setFlags f) h

theorem jumpIf_mem {s t : State} {c : Bool} {rel : BitVec 26} (h : s.jumpIf c rel = .next t) : t.mem = s.mem := by
  rw [jumpIf_eq] at h
  cases h
  rfl

theorem execJmpReg_mem {s t : State} {x y : Reg} (h : execJmpReg x y s = .next t) : t.mem = s.mem := by
  obtain rfl := execJmpReg_cases _ _ _ _ h
  simp

theorem execGetc_mem {s t : State} {x : Reg} (h : execGetc x s = .next t) : t.mem = s.mem := by
  rcases execGetc_cases _ _ _ h with ⟨-, rfl⟩ | ⟨b, rest, -, rfl⟩
  · rfl
  · simp

theorem haltWith_changesOnlyIn {s t : State} {c : Byte} (hm : Memory.wf s.mem) (h : s.haltWith c = .next t) :
    changesOnlyIn (s.params.haltExitCell.map fun cell => (cell, 1)) s t := by
  rcases haltWith_cases _ _ _ h with ⟨-, rfl⟩ | ⟨cell, hcell, -, rfl⟩
  · exact changesOnlyIn_of_mem_eq _ rfl
  · rw [hcell]
    exact changesOnlyIn_writeBytes hm (length_bigEndianBytes 1 (c.setWidth 64)) rfl

/-- A `read` service stores only what it delivers, `nbyte` bytes at most (rule R282). -/
theorem serveRead_changesOnlyIn {s t : State} {x y z : Reg} (hm : Memory.wf s.mem)
    (hread : s.params.trapTable.lookup (s.reg x).toNat = some .read)
    (h : s.serveRead (blockAt s (s.reg y)) z = .next t) : changesOnlyIn (readBuffer s x y) s t := by
  rcases serveRead_cases _ _ _ _ h with ⟨-, rfl⟩ | ⟨e, -, rfl⟩ | ⟨bytes, bs, hanswer, rfl, -, rfl⟩
  · exact changesOnlyIn_of_mem_eq _ rfl
  · exact changesOnlyIn_of_mem_eq _ (by simp)
  · have hbuffer : readBuffer s x y =
        some ((blockAt s (s.reg y)).buf, min (blockAt s (s.reg y)).nbyte bytes.length) := by
      simp only [readBuffer, hread, hanswer]
    rw [hbuffer]
    exact changesOnlyIn_writeBytes hm List.length_take (by simp)

/-- A `write` service stores nothing (rule R283). -/
theorem serveWrite_mem {s t : State} {req : Request} {z : Reg} (h : s.serveWrite req z = .next t) : t.mem = s.mem := by
  obtain ⟨-, ⟨-, rfl⟩ | ⟨e, -, rfl⟩ | ⟨count, k, -, -, rfl⟩⟩ := serveWrite_cases _ _ _ _ h
  · rfl
  · simp
  · simp

theorem execTrap_changesOnlyIn {s t : State} {x y z : Reg} (hm : Memory.wf s.mem) (h : execTrap x y z s = .next t) :
    changesOnlyIn (readBuffer s x y) s t := by
  obtain ⟨req, hreq, hserved⟩ := execTrap_cases _ _ _ _ _ h
  obtain ⟨-, rfl⟩ := request_cases _ _ _ hreq
  rcases hserved with ⟨hread, hserve⟩ | ⟨-, hserve⟩
  · exact serveRead_changesOnlyIn hm hread hserve
  · exact changesOnlyIn_of_mem_eq _ (serveWrite_mem hserve)

/-- A load changes no byte, a store only those of its access. -/
theorem dataAccess_changesOnlyIn {i : Instr} {s t : State} {kind : AccessKind} {a : Addr} {n : Nat}
    (haccess : dataAccess s i = some (kind, a, n)) (hm : Memory.wf s.mem) (h : exec i s = .next t) :
    changesOnlyIn (storedRange s i) s t := by
  rcases exec_of_dataAccess haccess with ⟨rfl, extend, z, hload⟩ | ⟨rfl, x, hstore⟩
  · exact changesOnlyIn_of_mem_eq _ (load_mem (hload.symm.trans h))
  · have hrange : storedRange s i = some (a, n) := by rw [storedRange, haccess]
    rw [hrange]
    exact store_changesOnlyIn hm (hstore.symm.trans h)

/-- An instruction that is no load and no store changes only bytes that it writes for the environment. -/
theorem noDataAccess_changesOnlyIn {i : Instr} {s t : State} (haccess : dataAccess s i = none) (hm : Memory.wf s.mem)
    (h : exec i s = .next t) : changesOnlyIn (environmentStore s i) s t := by
  cases i with
  | haltReg | haltImm => exact haltWith_changesOnlyIn hm h
  | trap => exact execTrap_changesOnlyIn hm h
  | getc => exact changesOnlyIn_of_mem_eq _ (execGetc_mem h)
  | putcReg | putcImm | nop | jmpRel => cases h; exact changesOnlyIn_of_mem_eq _ rfl
  | addqReg | addqImm | subqReg | subqImm | imulqReg | imulqImm | orq | andq | notq | ldzwq | ldsq | shldwq
  | shlqReg | shlqImm => exact changesOnlyIn_of_mem_eq _ (flaggedResult_mem h)
  | shrqReg | shrqImm | sarqReg | sarqImm => exact changesOnlyIn_of_mem_eq _ (plainResult_mem h)
  | mulqReg | mulqImm => exact changesOnlyIn_of_mem_eq _ (mulBy_mem h)
  | divqReg | divqImm => exact changesOnlyIn_of_mem_eq _ (divBy_mem h)
  | idivqReg | idivqImm => exact changesOnlyIn_of_mem_eq _ (idivBy_mem h)
  | jmpReg => exact changesOnlyIn_of_mem_eq _ (execJmpReg_mem h)
  | je | jne | jl | jge | jle | jg | jb | jae | jna | ja => exact changesOnlyIn_of_mem_eq _ (jumpIf_mem h)
  | _ => cases haccess

/-- Settles O17: by the data access where there is one, else by what the instruction writes for the environment. -/
theorem memoryFrame : Obligations.MemoryFrame := by
  intro i s t hm h
  cases haccess : dataAccess s i with
  | some access => exact dataAccess_changesOnlyIn haccess hm h
  | none =>
    have hrange : storedRange s i = environmentStore s i := by rw [storedRange, haccess]
    rw [hrange]
    exact noDataAccess_changesOnlyIn haccess hm h

end Sys2Proof.Machine
end

section
/-! An instruction stored at `pc` (rules R42, R55, R60): the decoder reads back what the encoder wrote, the word lies in memory
as the fetch reads it, and the step runs it. -/

open Sys2Proof Sys2Proof.Machine

namespace Sys2Proof

/-- The decoder undoes the encoder (rules R63 to R79): only an immediate of 16 bits and a jump offset are cut into bytes. -/
theorem decodeFields_encode (i : Instr) (h : i.wellFormed = true) :
    decodeFields i.opcode i.operandBytes.1 i.operandBytes.2.1 i.operandBytes.2.2 = .ok i := by
  cases i with
  | ldzwq imm | ldsq imm | shldwq imm =>
    conv_rhs => rw [← join_imm16 imm]
    rfl
  | jmpRel rel | je rel | jne rel | jl rel | jge rel | jle rel | jg rel | jb rel | jae rel | jna rel | ja rel =>
    conv_rhs => rw [← join_rel rel h]
    rfl
  | _ => rfl

/-- An encoded instruction decodes to itself, whatever bytes follow. -/
theorem decode_encode_append (i : Instr) (rest : List Byte) (h : i.wellFormed = true) :
    decode (encode i ++ rest) = .ok (i, rest) := by
  simp only [encode, List.cons_append, List.nil_append, decode, decodeFields_encode i h]

/-- The encoder writes the bytes a format does not use as 0 (rule R81). -/
theorem canonicalUnused (i : Instr) : Laws.CanonicalUnused.Statement i := by cases i <;> rfl

/-- A word put together from Op, X, Y, Z lies in memory as these four bytes. -/
theorem wordBytes_append (op x y z : Byte) : wordBytes (op ++ x ++ y ++ z) = [op, x, y, z] := by
  have hop : (op ++ x ++ y ++ z).extractLsb' 24 8 = op := by
    rw [BitVec.extractLsb'_append_eq_of_le (by decide), BitVec.extractLsb'_append_eq_of_le (by decide)]
    exact BitVec.extractLsb'_append_eq_left
  have hx : (op ++ x ++ y ++ z).extractLsb' 16 8 = x := by
    rw [BitVec.extractLsb'_append_eq_of_le (by decide), BitVec.extractLsb'_append_eq_of_le (by decide)]
    exact BitVec.extractLsb'_append_eq_right
  have hy : (op ++ x ++ y ++ z).extractLsb' 8 8 = y := by
    rw [BitVec.extractLsb'_append_eq_of_le (by decide)]
    exact BitVec.extractLsb'_append_eq_right
  have hz : (op ++ x ++ y ++ z).extractLsb' 0 8 = z := BitVec.extractLsb'_append_eq_right
  rw [wordBytes, hop, hx, hy, hz]

/-- The word of an instruction as memory holds it is its encoding. -/
theorem wordBytes_encodeWord (i : Instr) : wordBytes (encodeWord i) = encode i :=
  wordBytes_append ..

end Sys2Proof

namespace Sys2Proof.Machine

/-- The low four bytes of a word widened to a quad are the bytes of the word. -/
theorem bigEndianBytes_word (w : BitVec 32) : bigEndianBytes 4 (w.setWidth 64) = wordBytes w := by
  have hbyte : ∀ p, p + 8 ≤ 64 → (w.setWidth 64).extractLsb' p 8 = w.extractLsb' p 8 :=
    fun _ => BitVec.extractLsb'_setWidth_of_le
  simp [bigEndianBytes, wordBytes, List.range_succ, hbyte]

/-- A row's word of 32 bits placed at `pc` lies there as the encoding of its instruction. -/
theorem withFetchWord_encodeWord (s : State) (i : Instr) :
    s.withFetchWord 32 (encodeWord i).toNat = { s with mem := Memory.writeBytes s.mem s.pc (encode i) } := by
  have hword : BitVec.ofNat 32 ((encodeWord i).toNat % 2 ^ 32) = encodeWord i := by
    rw [Nat.mod_eq_of_lt (encodeWord i).isLt, BitVec.ofNat_toNat, BitVec.setWidth_eq]
  rw [State.withFetchWord, State.placeWord, hword, wordBytes_encodeWord]

/-- The unused bytes of an encoded instruction are acceptable under both choices of UNUSED_FIELDS. -/
theorem acceptsUnused_encode (s : State) (i : Instr) : s.acceptsUnused i (encode i) = true := by
  unfold State.acceptsUnused
  split
  · rfl
  · exact canonicalUnused i

/-- An encoded instruction at `pc` is fetched, where the fetch is in order. -/
theorem fetchInstr_encode (s : State) (i : Instr) (hi : i.wellFormed = true) (h : accessible s s.pc 4)
    (hbytes : Memory.readBytes s.mem s.pc 4 = encode i) : s.fetchInstr = .ok i := by
  obtain ⟨halign, hexist⟩ := h
  have hdecode : decode (encode i) = .ok (i, []) := decode_encode_append i [] hi
  simp only [State.fetchInstr, fetchBytes_ok s halign hexist, hbytes, hdecode, acceptsUnused_encode, if_true]

/-- Settles O10: the store primitive and the placement write the same encoding at `pc`, and the fetch reads it back. -/
theorem writtenInstructionIsFetched : Obligations.WrittenInstructionIsFetched := by
  intro s i hi hm hrun ha
  rw [withFetchWord_encodeWord]
  refine ⟨?_, step_running _ i hrun (fetchInstr_encode _ i hi ha ?_)⟩
  · rw [memWrite_ok s s.pc 4 _ ha, bigEndianBytes_word, wordBytes_encodeWord]
  · exact Memory.readBytes_writeBytes s.mem s.pc (encode i) hm.1 (by simp [encode])

end Sys2Proof.Machine
end

section
/-! The opcode map read backwards (rules R63 to R81): all that the decoder can answer, which operand bytes decide it, and which
opcodes have no instruction. -/

open Sys2Proof Sys2Proof.Machine

namespace Sys2Proof

/-! ### What the decoder answers -/

/-- The operand bytes X, Y, Z of an instruction in a list. -/
def Instr.operandList (i : Instr) : List Byte := [i.operandBytes.1, i.operandBytes.2.1, i.operandBytes.2.2]

/-- An answer of the decoder that fits Op, X, Y, Z: an instruction that is well formed, has that opcode and carries the bytes
its format uses, or the error that names the opcode. -/
def fitsFields (op x y z : Byte) : Except DecodeError Instr → Prop
  | .ok i => i.wellFormed = true ∧ i.opcode = op ∧
      i.operandList.take i.format.usedBytes = [x, y, z].take i.format.usedBytes
  | .error e => e = .undefinedOpcode op

/-- Every answer of the decoder fits its bytes: one case per row of the opcode map. Only the jump offsets (rows 39 to 49, opcodes
0x41 to 0x4B) and the immediates of 16 bits (rows 55, 56 and 60, opcodes 0x56, 0x57 and 0x5D) are put together from several
bytes; what remains after the 98 rows is the error. -/
theorem decodeFields_fits (op x y z : Byte) : fitsFields op x y z (decodeFields op x y z) := by
  have hoffset : [(x ++ y ++ z ++ 0#2).extractLsb' 18 8, (x ++ y ++ z ++ 0#2).extractLsb' 10 8,
      (x ++ y ++ z ++ 0#2).extractLsb' 2 8] = [x, y, z] := by rw [rel_byte_x, rel_byte_y, rel_byte_z]
  have himm : [(x ++ y).extractLsb' 8 8, (x ++ y).extractLsb' 0 8, z] = [x, y, z] := by
    rw [imm16_byte_x, imm16_byte_y]
  unfold decodeFields
  split
  case h_39 | h_40 | h_41 | h_42 | h_43 | h_44 | h_45 | h_46 | h_47 | h_48 | h_49 =>
    exact ⟨rel_wellFormed x y z, rfl, hoffset⟩
  case h_55 | h_56 | h_60 => exact ⟨rfl, rfl, himm⟩
  case h_99 => exact rfl
  all_goals exact ⟨rfl, rfl, rfl⟩

theorem decodeFields_ok {op x y z : Byte} {i : Instr} (h : decodeFields op x y z = .ok i) :
    i.wellFormed = true ∧ i.opcode = op ∧
      i.operandList.take i.format.usedBytes = [x, y, z].take i.format.usedBytes := by
  have hfits := decodeFields_fits op x y z
  rwa [h] at hfits

theorem decodeFields_error {op x y z : Byte} {e : DecodeError} (h : decodeFields op x y z = .error e) :
    e = .undefinedOpcode op := by
  have hfits := decodeFields_fits op x y z
  rwa [h] at hfits

/-- An instruction read off a list of bytes is the reading of its first four. -/
theorem decode_ok {bs rest : List Byte} {i : Instr} (h : decode bs = .ok (i, rest)) :
    ∃ op x y z, decodeFields op x y z = .ok i := by
  unfold decode at h
  split at h
  · rename_i op x y z _
    split at h
    · rename_i hfields; cases h; exact ⟨op, x, y, z, hfields⟩
    · cases h
  · cases h

/-! ### Used and unused operand bytes -/

/-- Unused operand bytes are all 0 exactly where they are this run of zeros. -/
theorem unusedBytesZero_iff (i : Instr) (x y z : Byte) :
    unusedBytesZero i x y z = true ↔
      [x, y, z].drop i.format.usedBytes = List.replicate (3 - i.format.usedBytes) 0#8 := by
  simp [unusedBytesZero, List.eq_replicate_iff]

/-- Where the unused bytes are 0, as the encoder writes them, the used ones say all. -/
theorem operandList_eq_of_unusedBytesZero {i : Instr} {x y z : Byte}
    (hused : i.operandList.take i.format.usedBytes = [x, y, z].take i.format.usedBytes)
    (hunused : unusedBytesZero i x y z = true) : i.operandList = [x, y, z] := by
  have hdrop : i.operandList.drop i.format.usedBytes = [x, y, z].drop i.format.usedBytes :=
    ((unusedBytesZero_iff i _ _ _).1 (canonicalUnused i)).trans ((unusedBytesZero_iff i x y z).1 hunused).symm
  rw [← List.take_append_drop i.format.usedBytes i.operandList, hused, hdrop, List.take_append_drop]

/-- The decoder looks at the used operand bytes only (rule R81): with them it answers the instruction again. -/
theorem decodeFields_of_used_eq {i : Instr} {x y z : Byte} (hi : i.wellFormed = true)
    (hused : i.operandList.take i.format.usedBytes = [x, y, z].take i.format.usedBytes) :
    decodeFields i.opcode x y z = .ok i := by
  cases i with
  | nop => rfl
  | haltReg | haltImm | getc | putcReg | putcImm => cases hused; rfl
  | jmpReg | notq => cases hused; rfl
  | _ =>
    cases hused
    exact decodeFields_encode _ hi

/-! ### The opcodes without an instruction -/

/-- No instruction has an opcode of the list of rule R80. -/
theorem undefinedOpcode_opcode (i : Instr) : undefinedOpcode i.opcode.toNat = false := by cases i <;> rfl

/-- Every opcode outside the list of rule R80 has an instruction: by looking at each of the 256 values. -/
theorem exists_opcode_of_defined (op : Byte) (hop : undefinedOpcode op.toNat = false) : ∃ i : Instr, i.opcode = op := by
  have hread : ∀ op : Byte, undefinedOpcode op.toNat = false → (decodeFields op 0 0 0).isOk = true := by decide
  have hok := hread op hop
  cases hfields : decodeFields op 0 0 0 with
  | ok i => exact ⟨i, (decodeFields_ok hfields).2.1⟩
  | error e => rw [hfields] at hok; cases hok

/-- Whether the decoder answers an instruction hangs on the opcode alone. -/
theorem exists_decodeFields_opcode (i : Instr) (x y z : Byte) : ∃ j, decodeFields i.opcode x y z = .ok j := by
  cases i <;> exact ⟨_, rfl⟩

/-- The decoder answers no instruction exactly for the opcodes of rule R80. -/
theorem decodeFields_eq_error_iff (op x y z : Byte) :
    decodeFields op x y z = .error (.undefinedOpcode op) ↔ undefinedOpcode op.toNat = true := by
  constructor
  · intro herror
    by_contra hdefined
    obtain ⟨i, rfl⟩ := exists_opcode_of_defined op (Bool.eq_false_of_not_eq_true hdefined)
    obtain ⟨j, hj⟩ := exists_decodeFields_opcode i x y z
    rw [hj] at herror
    cases herror
  · intro hundefined
    cases hfields : decodeFields op x y z with
    | ok i =>
      obtain ⟨-, rfl, -⟩ := decodeFields_ok hfields
      rw [undefinedOpcode_opcode] at hundefined
      cases hundefined
    | error e => rw [decodeFields_error hfields]

theorem decode_eq_error_iff (op x y z : Byte) (rest : List Byte) :
    decode (op :: x :: y :: z :: rest) = .error (.undefinedOpcode op) ↔ undefinedOpcode op.toNat = true := by
  rw [← decodeFields_eq_error_iff op x y z, decode]
  cases decodeFields op x y z <;> simp

/-! ### The decoder and the encoder are inverse to each other -/

/-- Settles O1: `decodeFields_encode` on the first four bytes. -/
theorem decodeEncodeRoundTrip : Obligations.DecodeEncodeRoundTrip := decode_encode_append

/-- Settles O2: the four bytes are the opcode and the operand bytes, which are known once the unused ones are 0. -/
theorem decodedInstructionReencodes : Obligations.DecodedInstructionReencodes := by
  intro op x y z i h
  obtain ⟨hwf, rfl, hused⟩ := decodeFields_ok h
  exact ⟨hwf, rfl, hused, fun hunused => congrArg (i.opcode :: ·) (operandList_eq_of_unusedBytesZero hused hunused)⟩

end Sys2Proof
end

section
/-! The fetch (rules R42, R60, R61, R80, R81): what a running machine does with the four bytes at `pc`, in the order of its
checks. -/

open Sys2Proof Sys2Proof.Machine

namespace Sys2Proof.Machine

/-! ### The fetch, check by check -/

theorem readBytes_four (m : Memory) (a : Addr) :
    Memory.readBytes m a 4 = [Memory.byteAt m a.toNat, Memory.byteAt m (Memory.cell a 1),
      Memory.byteAt m (Memory.cell a 2), Memory.byteAt m (Memory.cell a 3)] := by
  rw [← Memory.cell_zero a]
  rfl

theorem step_fetch_fault {s : State} {f : Fault} (hrun : s.halted = none) (h : s.fetchInstr = .error f) :
    step s = .fault f := by
  simp only [step, hrun, h, raise]

/-- What the fetch of the bytes faults with, the step faults with. -/
theorem step_fetchBytes_fault {s : State} {f : Fault} (hrun : s.halted = none) (h : s.fetchBytes = .error f) :
    step s = .fault f :=
  step_fetch_fault hrun (by simp only [State.fetchInstr, h])

/-- A misaligned `pc` faults whatever exists (rule R61). -/
theorem fetchBytes_misaligned {s : State} (h4 : s.pc.toNat % 4 ≠ 0) : s.fetchBytes = .error (.misalignedFetch s.pc) := by
  rw [State.fetchBytes, if_pos h4]

theorem fetchBytes_missing {s : State} (h4 : s.pc.toNat % 4 = 0) (hmissing : ¬ bytesExist s s.pc 4) :
    s.fetchBytes = .error (.memoryAccessFault s.pc 4 .fetch) := by
  have hvalid : ¬ s.valid s.pc 4 = true := fun hv => hmissing ((valid_iff s s.pc 4).1 hv)
  rw [State.fetchBytes, if_neg (not_not.2 h4), if_neg hvalid]

section InOrder

variable {s : State} (h4 : s.pc.toNat % 4 = 0) (hexist : bytesExist s s.pc 4)
include h4 hexist

/-- Bytes that are no instruction end the fetch (rule R80). -/
theorem fetchInstr_of_decode_error {e : DecodeError} (h : decode (Memory.readBytes s.mem s.pc 4) = .error e) :
    s.fetchInstr = .error (.illegalInstruction s.pc (BitVec.ofNat 32 (datum s.mem s.pc 4))) := by
  simp only [State.fetchInstr, fetchBytes_ok s h4 hexist, h, bigEndianValue_readBytes]

/-- Bytes that are an instruction are it, if their unused ones are acceptable (rule R81). -/
theorem fetchInstr_of_decode_ok {i : Instr} {rest : List Byte}
    (h : decode (Memory.readBytes s.mem s.pc 4) = .ok (i, rest)) :
    s.fetchInstr = if s.acceptsUnused i (Memory.readBytes s.mem s.pc 4) then .ok i
      else .error (.illegalInstruction s.pc (BitVec.ofNat 32 (datum s.mem s.pc 4))) := by
  simp only [State.fetchInstr, fetchBytes_ok s h4 hexist, h, bigEndianValue_readBytes]

end InOrder

/-- The unused bytes at `pc` are acceptable where they are ignored or 0. -/
theorem acceptsUnused_readBytes (s : State) (i : Instr) :
    s.acceptsUnused i (Memory.readBytes s.mem s.pc 4) = true ↔ s.params.unusedFields = .ignore ∨
      unusedBytesZero i (Memory.byteAt s.mem (Memory.cell s.pc 1)) (Memory.byteAt s.mem (Memory.cell s.pc 2))
        (Memory.byteAt s.mem (Memory.cell s.pc 3)) = true := by
  rw [readBytes_four]
  cases hchoice : s.params.unusedFields <;> simp [State.acceptsUnused, hchoice]

/-! ### The obligations about the fetch -/

/-- Settles O3: the list by its opcodes' instructions, its length by counting, the fault by the failed decoding. -/
theorem undefinedOpcodesAreIllegal : Obligations.UndefinedOpcodesAreIllegal := by
  refine ⟨decode_eq_error_iff, rfl, fun s hrun h4 hexist hundefined => ?_⟩
  have hdecode : decode (Memory.readBytes s.mem s.pc 4) =
      .error (.undefinedOpcode (Memory.byteAt s.mem s.pc.toNat)) := by
    rw [readBytes_four]
    exact (decode_eq_error_iff ..).2 hundefined
  exact step_fetch_fault hrun (fetchInstr_of_decode_error h4 hexist hdecode)

/-- Settles O5: the used bytes decide what the decoder answers, and `acceptsUnused` is false of a nonzero unused one. -/
theorem unusedOperandBytes : Obligations.UnusedOperandBytes := by
  constructor
  · intro op x y z x' y' z' i h hagree
    obtain ⟨hwf, rfl, hused⟩ := decodeFields_ok h
    exact decodeFields_of_used_eq hwf (hused.trans hagree)
  · intro s i rest hrun h4 hexist hdecode hrefuse hnonzero
    have hnot : ¬ s.acceptsUnused i (Memory.readBytes s.mem s.pc 4) = true := by
      simp [acceptsUnused_readBytes, hrefuse, hnonzero]
    exact step_fetch_fault hrun ((fetchInstr_of_decode_ok h4 hexist hdecode).trans (if_neg hnot))

/-- Settles O6: with acceptable unused bytes the fetch answers the decoded instruction, which the step executes. -/
theorem stepRunsDecodedInstruction : Obligations.StepRunsDecodedInstruction := by
  intro s i rest hrun h4 hexist hdecode hunused
  have haccept := (acceptsUnused_readBytes s i).2 hunused
  exact step_running s i hrun ((fetchInstr_of_decode_ok h4 hexist hdecode).trans (if_pos haccept))

/-- Settles O7: the two failing answers of the fetch, in its order. -/
theorem fetchChecksComeInOrder : Obligations.FetchChecksComeInOrder := fun _ hrun =>
  ⟨fun hmis => step_fetchBytes_fault hrun (fetchBytes_misaligned hmis),
    fun h4 hmissing => step_fetchBytes_fault hrun (fetchBytes_missing h4 hmissing)⟩

end Sys2Proof.Machine
end

section
/-! What every instruction does to `pc` (rules R61, R62, R160 to R172, R270, R305, R310): one rule per kind of instruction, one
lemma per shared operation, one split over the instructions. -/

open Sys2Proof Sys2Proof.Machine

namespace Sys2Proof.Machine

/-! ### When an instruction waits -/

/-- A service of the environment for the trap number in `x` and the block at `y` that has not returned (rule R305). -/
def serviceWaits (s : State) (x y : Reg) : Prop :=
  (s.params.trapTable.lookup (s.reg x).toNat = some .read ∧ s.readAnswer (blockAt s (s.reg y)) = none) ∨
    (s.params.trapTable.lookup (s.reg x).toNat = some .write ∧
      s.writeAnswer (blockAt s (s.reg y))
        (Memory.readBytes s.mem (blockAt s (s.reg y)).buf (blockAt s (s.reg y)).nbyte) = none)

theorem waits_getc (s : State) (x : Reg) : waits s (.getc x) ↔ s.input = [] := by simp [waits]

theorem waits_trap (s : State) (x y z : Reg) : waits s (.trap x y z) ↔ serviceWaits s x y := by
  simp [waits, serviceWaits]

/-- Only `getc` and `trap` wait. -/
theorem not_waits {s : State} {i : Instr} (hgetc : ∀ x, i ≠ .getc x) (htrap : ∀ x y z, i ≠ .trap x y z) :
    ¬ waits s i := by
  rintro (⟨x, hi, -⟩ | ⟨x, y, z, hi, -⟩)
  · exact hgetc x hi
  · exact htrap x y z hi

/-! ### The rules for `pc` -/

/-- What instruction `i` does to `pc` from `s` to `t`: the sequential advance, a wait, a halt, a relative jump (taken or not)
or the jump to the address in a register, which alone can leave the multiples of 4. -/
inductive PcRule (s : State) (i : Instr) (t : State) : Prop where
  | advance (hi : advances i = true) (hw : ¬ waits s i) (hpc : t.pc = s.nextPc)
  | wait (hw : waits s i) (ht : t = s)
  | halt (hi : (∃ x, i = .haltReg x) ∨ ∃ c, i = .haltImm c) (hpc : t.pc = s.pc)
  | relative (rel : BitVec 26) (hi : i.format = .s24) (hwf : i.wellFormed = relWellFormed rel)
      (hpc : t.pc = s.nextPc ∨ t.pc = s.relTarget rel)
  | register (x y : Reg) (hi : i = .jmpReg x y) (hpc : t.pc = s.reg x)

/-! ### One lemma per shared operation -/

section Operations

variable {s t : State}

/-- A register write and the advance. -/
theorem plainResult_pc {z : Reg} {v : Quad} (h : Host.Outcome.next (s.setReg z v).advance = (.next t : Result)) :
    t.pc = s.nextPc := by
  cases h
  simp

theorem flaggedResult_pc {f : Flags} {z : Reg} {v : Quad}
    (h : Host.Outcome.next ((s.setFlags f).setReg z v).advance = (.next t : Result)) : t.pc = s.nextPc :=
  plainResult_pc (s := s.setFlags f) h

theorem load_pc {a : Addr} {n : Nat} {extend : Nat → Quad} {z : Reg} (h : s.load a n extend z = .next t) :
    t.pc = s.nextPc := by
  obtain ⟨-, rfl⟩ := load_cases _ _ _ _ _ _ h
  simp

theorem store_pc {a : Addr} {n : Nat} {x : Reg} (h : s.store a n x = .next t) : t.pc = s.nextPc := by
  obtain ⟨-, rfl⟩ := store_cases _ _ _ _ _ h
  rfl

theorem mulBy_pc {w : BitVec 32} {a : Quad} {y z : Reg} (h : s.mulBy w a y z = .next t) : t.pc = s.nextPc := by
  obtain ⟨_, -, rfl⟩ := mulBy_cases _ _ _ _ _ _ h
  simp

theorem divBy_pc {w : BitVec 32} {a : Quad} {y z : Reg} (h : s.divBy w a y z = .next t) : t.pc = s.nextPc := by
  obtain ⟨_, _, _, -, -, -, -, _, _, rfl, -, -⟩ := divBy_cases _ _ _ _ _ _ h
  simp

theorem idivBy_pc {w : BitVec 32} {a : Quad} {y z : Reg} (h : s.idivBy w a y z = .next t) : t.pc = s.nextPc := by
  obtain ⟨_, -, -, -, rfl⟩ := idivBy_cases _ _ _ _ _ _ h
  simp

theorem haltWith_pc {c : Byte} (h : s.haltWith c = .next t) : t.pc = s.pc := by
  rcases haltWith_cases _ _ _ h with ⟨-, rfl⟩ | ⟨_, -, -, rfl⟩ <;> rfl

theorem execJmpReg_pc {x y : Reg} (h : execJmpReg x y s = .next t) : t.pc = s.reg x := by
  obtain rfl := execJmpReg_cases _ _ _ _ h
  rfl

theorem jumpIf_pc {c : Bool} {rel : BitVec 26} (h : s.jumpIf c rel = .next t) :
    t.pc = s.nextPc ∨ t.pc = s.relTarget rel := by
  rw [jumpIf_eq] at h
  cases h
  cases c
  · exact .inl rfl
  · exact .inr rfl

/-- A service that has not returned changes nothing, one that has ends with the advance (rules R282, R305). -/
theorem serveRead_pc {req : Request} {z : Reg} (h : s.serveRead req z = .next t) :
    (s.readAnswer req = none ∧ t = s) ∨ (s.readAnswer req ≠ none ∧ t.pc = s.nextPc) := by
  rcases serveRead_cases _ _ _ _ h with hwait | ⟨e, ha, rfl⟩ | ⟨bytes, bs, ha, -, -, rfl⟩
  · exact .inl hwait
  · exact .inr ⟨by simp [ha], by simp [State.nextPc]⟩
  · exact .inr ⟨by simp [ha], by simp [State.nextPc]⟩

theorem serveWrite_pc {req : Request} {z : Reg} (h : s.serveWrite req z = .next t) :
    (s.writeAnswer req (Memory.readBytes s.mem req.buf req.nbyte) = none ∧ t = s) ∨
      (s.writeAnswer req (Memory.readBytes s.mem req.buf req.nbyte) ≠ none ∧ t.pc = s.nextPc) := by
  obtain ⟨-, hwait | ⟨e, ha, rfl⟩ | ⟨count, k, ha, -, rfl⟩⟩ := serveWrite_cases _ _ _ _ h
  · exact .inl hwait
  · exact .inr ⟨by simp [ha], by simp [State.nextPc]⟩
  · exact .inr ⟨by simp [ha], by simp [State.nextPc]⟩

theorem execTrap_pcRule {x y z : Reg} (h : execTrap x y z s = .next t) : PcRule s (.trap x y z) t := by
  obtain ⟨req, hreq, hserved⟩ := execTrap_cases _ _ _ _ _ h
  obtain ⟨-, rfl⟩ := request_cases _ _ _ hreq
  rcases hserved with ⟨hnumber, hserve⟩ | ⟨hnumber, hserve⟩
  · rcases serveRead_pc hserve with ⟨ha, rfl⟩ | ⟨ha, hpc⟩
    · exact .wait ((waits_trap ..).2 (.inl ⟨hnumber, ha⟩)) rfl
    · exact .advance rfl (by simp [waits_trap, serviceWaits, hnumber, ha]) hpc
  · rcases serveWrite_pc hserve with ⟨ha, rfl⟩ | ⟨ha, hpc⟩
    · exact .wait ((waits_trap ..).2 (.inr ⟨hnumber, ha⟩)) rfl
    · exact .advance rfl (by simp [waits_trap, serviceWaits, hnumber, ha]) hpc

theorem execGetc_pcRule {x : Reg} (h : execGetc x s = .next t) : PcRule s (.getc x) t := by
  rcases execGetc_cases _ _ _ h with ⟨hempty, rfl⟩ | ⟨b, rest, hinput, rfl⟩
  · exact .wait ((waits_getc ..).2 hempty) rfl
  · exact .advance rfl (by simp [waits_getc, hinput]) (by simp [State.nextPc])

end Operations

/-! ### Every instruction -/

/-- Every instruction that answers a next state follows its rule for `pc`. -/
theorem exec_pcRule (i : Instr) (s t : State) (h : exec i s = .next t) : PcRule s i t := by
  cases i with
  | haltReg x => exact .halt (.inl ⟨x, rfl⟩) (haltWith_pc h)
  | haltImm c => exact .halt (.inr ⟨c, rfl⟩) (haltWith_pc h)
  | trap => exact execTrap_pcRule h
  | getc => exact execGetc_pcRule h
  | jmpReg x y => exact .register x y rfl (execJmpReg_pc h)
  | jmpRel rel => cases h; exact .relative rel rfl rfl (.inr rfl)
  | je rel | jne rel | jl rel | jge rel | jle rel | jg rel | jb rel | jae rel | jna rel | ja rel =>
    exact .relative rel rfl rfl (jumpIf_pc h)
  | putcReg | putcImm | nop => cases h; exact .advance rfl (not_waits nofun nofun) rfl
  | movqLoadIndexed | movqLoadDisp | movqLoadScaled2 | movqLoadScaled4 | movqLoadScaled8
  | movzlqIndexed | movzlqDisp | movzlqScaled2 | movzlqScaled4 | movzlqScaled8
  | movzwqIndexed | movzwqDisp | movzwqScaled2 | movzwqScaled4 | movzwqScaled8
  | movzbqIndexed | movzbqDisp | movzbqScaled2 | movzbqScaled4 | movzbqScaled8
  | movslqIndexed | movslqDisp | movslqScaled2 | movslqScaled4 | movslqScaled8
  | movswqIndexed | movswqDisp | movswqScaled2 | movswqScaled4 | movswqScaled8
  | movsbqIndexed | movsbqDisp | movsbqScaled2 | movsbqScaled4 | movsbqScaled8 =>
    exact .advance rfl (not_waits nofun nofun) (load_pc h)
  | movqStoreIndexed | movqStoreDisp | movqStoreScaled2 | movqStoreScaled4 | movqStoreScaled8
  | movlIndexed | movlDisp | movlScaled2 | movlScaled4 | movlScaled8
  | movwIndexed | movwDisp | movwScaled2 | movwScaled4 | movwScaled8
  | movbIndexed | movbDisp | movbScaled2 | movbScaled4 | movbScaled8 =>
    exact .advance rfl (not_waits nofun nofun) (store_pc h)
  | addqReg | addqImm | subqReg | subqImm | imulqReg | imulqImm | orq | andq | notq | ldzwq | ldsq | shldwq
  | shlqReg | shlqImm => exact .advance rfl (not_waits nofun nofun) (flaggedResult_pc h)
  | shrqReg | shrqImm | sarqReg | sarqImm => exact .advance rfl (not_waits nofun nofun) (plainResult_pc h)
  | mulqReg | mulqImm => exact .advance rfl (not_waits nofun nofun) (mulBy_pc h)
  | divqReg | divqImm => exact .advance rfl (not_waits nofun nofun) (divBy_pc h)
  | idivqReg | idivqImm => exact .advance rfl (not_waits nofun nofun) (idivBy_pc h)

/-! ### The advance and the targets -/

theorem toNat_nextPc (s : State) : s.nextPc.toNat = (s.pc.toNat + 4) % 2 ^ 64 :=
  toNat_pat64_natCast (s.pc.toNat + 4)

/-- A relative jump does not advance, taken or not. -/
theorem advances_of_format_s24 {i : Instr} (h : i.format = .s24) : advances i = false := by simp [advances, h]

/-- A well-formed byte offset is a multiple of 4 (rule R72). -/
theorem toInt_emod_four_of_relWellFormed {rel : BitVec 26} (h : relWellFormed rel = true) : rel.toInt % 4 = 0 := by
  have hlow : rel.toNat % 4 = 0 := by
    simpa [BitVec.extractLsb'_toNat] using congrArg BitVec.toNat (beq_iff_eq.1 h)
  rw [BitVec.toInt_eq_toNat_bmod, Int.bmod_def]
  split <;> omega

theorem nextPc_aligned {s : State} (h4 : s.pc.toNat % 4 = 0) : s.nextPc.toNat % 4 = 0 := by
  rw [toNat_nextPc]
  omega

theorem relTarget_aligned {s : State} {rel : BitVec 26} (h4 : s.pc.toNat % 4 = 0) (hrel : relWellFormed rel = true) :
    (s.relTarget rel).toNat % 4 = 0 := by
  have htarget : ((s.relTarget rel).toNat : Int) = (s.pc.toNat + rel.toInt) % 2 ^ 64 := toNat_pat64 _
  have hoffset := toInt_emod_four_of_relWellFormed hrel
  omega

/-- What a machine fetches is well formed. -/
theorem wellFormed_of_fetchInstr {s : State} {i : Instr} (h : s.fetchInstr = .ok i) : i.wellFormed = true := by
  obtain ⟨-, ⟨rest, hdecode⟩, -⟩ := fetchInstr_cases s i h
  obtain ⟨op, x, y, z, hfields⟩ := decode_ok hdecode
  exact (decodeFields_ok hfields).1

/-! ### The obligations about `pc` -/

/-- Settles O19: by the instruction's rule for `pc`, where only the advance and the wait are open to what is no jump and no halt. -/
theorem pcAdvance : Obligations.PcAdvance := by
  intro i s t h
  have hhalts : (∃ x, i = .haltReg x) ∨ (∃ x, i = .haltImm x) → t.pc = s.pc := by
    rintro (⟨x, rfl⟩ | ⟨c, rfl⟩) <;> exact haltWith_pc h
  refine ⟨fun hadv => ?_, hhalts⟩
  cases exec_pcRule i s t h with
  | advance _ hw hpc => exact ⟨fun hwait => absurd hwait hw, fun _ => by rw [advanced, hpc, toNat_nextPc]⟩
  | wait hw ht => exact ⟨fun _ => ht, fun hnot => absurd hw hnot⟩
  | halt hi => rcases hi with ⟨x, rfl⟩ | ⟨c, rfl⟩ <;> cases hadv
  | relative rel hi => rw [advances_of_format_s24 hi] at hadv; cases hadv
  | register x y hi => subst hi; cases hadv

/-- Settles O20: each rule for `pc` but that of `jmp %x, %y` goes from a multiple of 4 to a multiple of 4. -/
theorem alignedPcStaysAligned : Obligations.AlignedPcStaysAligned := by
  intro s t h h4 hnoJump
  rcases step_cases s t h with ⟨_, -, rfl⟩ | ⟨-, i, hfetch, hexec⟩
  · exact h4
  · cases exec_pcRule i s t hexec with
    | advance _ _ hpc => rw [hpc]; exact nextPc_aligned h4
    | wait _ ht => rw [ht]; exact h4
    | halt _ hpc => rw [hpc]; exact h4
    | relative rel _ hwf hpc =>
      have hrel : relWellFormed rel = true := hwf ▸ wellFormed_of_fetchInstr hfetch
      rcases hpc with hpc | hpc <;> rw [hpc]
      · exact nextPc_aligned h4
      · exact relTarget_aligned h4 hrel
    | register x y hi => exact absurd (hi ▸ hfetch) (hnoJump x y)

end Sys2Proof.Machine
end

section
/-! What an instruction that completes leaves behind, as a list of register writes and the flags (rules R12, R15, R62): one rule
per state operation, in the order in which an instruction applies them. -/

open Sys2Proof Sys2Proof.Machine

namespace Sys2Proof.Machine

/-! ### One rule per state operation -/

/-- New flags and nothing else. -/
theorem setFlags_registerResult (s : State) (f : Flags) : registerResult s (s.setFlags f) [] f :=
  ⟨registersAfter_nil s _ fun _ => rfl, rfl, sameMemory_of_mem_eq rfl, by simp [sameOutside]⟩

/-- No write at all. -/
theorem registerResult_refl (s : State) : registerResult s s [] s.flags := setFlags_registerResult s s.flags

theorem registerResult_advance {s t : State} {ws : List (Reg × Quad)} {f : Flags} (h : registerResult s t ws f) :
    registerResult s t.advance ws f := h

/-- The register file after one more write to a register not yet written: the writes listed in their order. -/
theorem registersAfter_append {s t : State} {ws : List (Reg × Quad)} (h : registersAfter s t ws) {z : Reg} (v : Quad)
    (hz : ∀ w ∈ ws, w.1 ≠ z) : registersAfter s (t.setReg z v) (ws ++ [(z, v)]) := by
  intro r
  rw [State.reg_setReg, h r, List.lookup_append]
  by_cases hrz : r = z
  · subst hrz
    have hnone : ws.lookup r = none := List.lookup_eq_none_iff.2 fun w hw => bne_iff_ne.2 (hz w hw).symm
    by_cases hr : r = 0#8 <;> simp [hr, hnone]
  · have hnone : [(z, v)].lookup r = none := by simpa using hrz
    simp [hrz, hnone]

/-- One more register written, all else as it was. -/
theorem registerResult_setReg {s t : State} {ws : List (Reg × Quad)} {f : Flags} (h : registerResult s t ws f) {z : Reg}
    (v : Quad) (hz : ∀ w ∈ ws, w.1 ≠ z) : registerResult s (t.setReg z v) (ws ++ [(z, v)]) f := by
  obtain ⟨hregs, hflags, hmem, hout⟩ := h
  refine ⟨registersAfter_append hregs v hz, by simpa using hflags, ?_, by simpa [sameOutside] using hout⟩
  simpa only [sameMemory, State.setReg_mem] using hmem

/-! ### The instruction as a whole -/

/-- Result `r` of an instruction executed in `s`: it completes, `pc` advances, the registers listed are written, the flags are
`f` and nothing else changes. -/
def completes (r : Result) (s : State) (ws : List (Reg × Quad)) (f : Flags) : Prop :=
  ∃ t, r = .next t ∧ advanced s t ∧ registerResult s t ws f

/-- The advance at the end of an instruction that has left `pc` alone. -/
theorem completes_advance {s t : State} {ws : List (Reg × Quad)} {f : Flags} (hpc : t.pc = s.pc)
    (h : registerResult s t ws f) : completes (.next t.advance) s ws f := by
  refine ⟨t.advance, rfl, ?_, registerResult_advance h⟩
  have hnext : t.nextPc = s.nextPc := by rw [State.nextPc, State.nextPc, hpc]
  rw [advanced, State.advance_pc, hnext, toNat_nextPc]

/-- An instruction that writes the flags and one register. -/
theorem completes_flagged (s : State) (f : Flags) (z : Reg) (v : Quad) :
    completes (.next ((s.setFlags f).setReg z v).advance) s [(z, v)] f :=
  completes_advance (by simp) (registerResult_setReg (setFlags_registerResult s f) v nofun)

end Sys2Proof.Machine
end

section
/-! The spec's patterns and flag conditions of integer arithmetic (rules R11, R100, R102 to R113) as operations on bit vectors. -/

open Sys2Proof Sys2Proof.Machine

namespace Sys2Proof.Machine

/-! ### Patterns -/

theorem pat64_natCast (n : Nat) : pat64 n = BitVec.ofNat 64 n := BitVec.ofInt_natCast 64 n

theorem pat64_toNat (a : Quad) : pat64 a.toNat = a := by simp [pat64_natCast]

theorem pat64_add_toNat (a b : Quad) : pat64 (a.toNat + b.toNat) = a + b := by
  rw [pat64, BitVec.ofInt_add, ← pat64, ← pat64, pat64_toNat, pat64_toNat]

theorem pat64_sub_toNat (a b : Quad) : pat64 ((b.toNat : Int) - a.toNat) = b - a := by
  have h : pat64 ((b.toNat : Int) - a.toNat) + a = b := by
    calc pat64 ((b.toNat : Int) - a.toNat) + a
        = pat64 ((b.toNat : Int) - a.toNat) + pat64 a.toNat := by rw [pat64_toNat]
      _ = pat64 ((b.toNat : Int) - a.toNat + a.toNat) := (BitVec.ofInt_add _ _).symm
      _ = b := by rw [Int.sub_add_cancel, pat64_toNat]
  exact eq_sub_of_add_eq h

theorem pat64_mul_toNat (a b : Quad) : pat64 (a.toNat * b.toNat) = a * b := by
  rw [pat64, BitVec.ofInt_mul, ← pat64, ← pat64, pat64_toNat, pat64_toNat]

/-- A pattern takes its number modulo 2^64. -/
theorem pat64_mod (n : Nat) : pat64 (n % 2 ^ 64 : Nat) = BitVec.ofNat 64 n := by
  rw [pat64_natCast]
  exact BitVec.eq_of_toNat_eq (by simp)

/-! ### Immediates (rule R100) -/

theorem unsignedImm_eq (imm : Byte) : unsignedImm imm = imm.setWidth 64 := by
  rw [unsignedImm, pat64_natCast, BitVec.ofNat_toNat]

theorem toNat_unsignedImm (imm : Byte) : (unsignedImm imm).toNat = imm.toNat := by
  rw [unsignedImm_eq]
  exact BitVec.toNat_setWidth_of_le (by decide)

/-- A byte read as 0 to 255 is no negative quadword. -/
theorem msb_unsignedImm (imm : Byte) : (unsignedImm imm).msb = false := by
  rw [BitVec.msb_eq_false_iff_two_mul_lt, toNat_unsignedImm]
  have := imm.isLt
  omega

theorem signedImm_eq (imm : Byte) : signedImm imm = imm.signExtend 64 := rfl

theorem toInt_signedImm (imm : Byte) : (signedImm imm).toInt = imm.toInt :=
  BitVec.toInt_signExtend_of_le (by decide)

/-! ### The flags of `addq` and `subq` -/

/-- The flags of a sum in the words of rule R102. -/
theorem addFlags_eq (a b : Quad) :
    addFlags a b = {
      zf := decide ((pat64 (a.toNat + b.toNat)).toNat = 0)
      cf := decide (a.toNat + b.toNat ≥ 2 ^ 64)
      of := decide (a.toInt + b.toInt ≥ 2 ^ 63 ∨ a.toInt + b.toInt < -2 ^ 63)
      sf := decide ((pat64 (a.toNat + b.toNat)).toNat ≥ 2 ^ 63) } := by
  simp [addFlags, ← BitVec.toNat_inj]

/-- The flags of a difference in the words of rule R104. -/
theorem subFlags_eq (a b : Quad) :
    subFlags a b = {
      zf := decide ((pat64 ((b.toNat : Int) - a.toNat)).toNat = 0)
      cf := decide (b.toNat < a.toNat)
      of := decide (b.toInt - a.toInt < -2 ^ 63 ∨ b.toInt - a.toInt ≥ 2 ^ 63)
      sf := decide ((pat64 ((b.toNat : Int) - a.toNat)).toNat ≥ 2 ^ 63) } := by
  simp [subFlags, ← BitVec.toNat_inj]

/-- The signed overflow of rule R102, read off the signs. -/
theorem addFlags_of_eq_signs (a b : Quad) : (addFlags a b).of = (a.msb == b.msb && !((a + b).msb == a.msb)) :=
  BitVec.saddOverflow_eq a b

/-- The signed overflow of rule R104, read off the signs. -/
theorem subFlags_of_eq_signs (a b : Quad) :
    (subFlags a b).of = ((!b.msb && a.msb && (b - a).msb) || (b.msb && !a.msb && !(b - a).msb)) := by
  rw [← BitVec.ssubOverflow_eq]
  exact Bool.or_comm _ _

/-- A sum has a carry exactly where it is below one of its terms. -/
theorem carry_iff_add_lt (a b : Quad) : 2 ^ 64 ≤ a.toNat + b.toNat ↔ (a + b).toNat < b.toNat := by
  have := a.isLt
  have := b.isLt
  rw [BitVec.toNat_add]
  omega

/-- The flags of a sum whose first operand is not negative. -/
theorem addFlags_eq_of_msb_false {a : Quad} (ha : a.msb = false) (b : Quad) :
    addFlags a b = {
      zf := a + b == 0#64
      cf := (a + b).ult b
      of := !b.msb && (a + b).msb
      sf := (a + b).msb } := by
  have hof : (addFlags a b).of = (!b.msb && (a + b).msb) := by rw [addFlags_of_eq_signs, ha]; simp
  have hcf : (addFlags a b).cf = (a + b).ult b := decide_eq_decide.2 (carry_iff_add_lt a b)
  have hzf : (addFlags a b).zf = (a + b == 0#64) := decide_eq_decide.2 (by rw [pat64_add_toNat])
  rw [← hof, ← hcf, ← hzf]
  simp only [addFlags, pat64_add_toNat, BitVec.msb_eq_decide]

/-- The flags of a difference whose subtrahend is not negative. -/
theorem subFlags_eq_of_msb_false {a : Quad} (ha : a.msb = false) (b : Quad) :
    subFlags a b = {
      zf := b == a
      cf := b.ult a
      of := b.msb && !(b - a).msb
      sf := (b - a).msb } := by
  have hof : (subFlags a b).of = (b.msb && !(b - a).msb) := by rw [subFlags_of_eq_signs, ha]; simp
  have hcf : (subFlags a b).cf = b.ult a := decide_eq_decide.2 (by omega)
  have hzf : (subFlags a b).zf = (b == a) := decide_eq_decide.2 (by rw [pat64_sub_toNat]; exact sub_eq_zero)
  rw [← hof, ← hcf, ← hzf]
  simp only [subFlags, pat64_sub_toNat, BitVec.msb_eq_decide]

/-! ### The flags of `mulq` and `imulq` -/

/-- The flags of `mulq`: both say that the low quadword of the product is 0 (rules R106, R107). -/
theorem mulFlags_eq (f : Flags) (a b : Quad) : mulFlags f a b = { f with cf := a * b == 0#64, of := a * b == 0#64 } := by
  have hlow : a.toNat * b.toNat % 2 ^ 64 = 0 ↔ a * b = 0#64 := by
    rw [← BitVec.toNat_mul, BitVec.toNat_eq, BitVec.toNat_ofNat, Nat.zero_mod]
  simp only [mulFlags, hlow]
  rfl

/-- The unsigned product needs more than 64 bits exactly where its low 64 bits have another value (rule R110). -/
theorem mul_unsigned_loss_iff (a b : Quad) : a.toNat * b.toNat ≠ (a * b).toNat ↔ 2 ^ 64 ≤ a.toNat * b.toNat := by
  rw [BitVec.toNat_mul]
  generalize a.toNat * b.toNat = p
  omega

/-- The signed product is outside the signed range exactly where its low 64 bits have another signed value (rule R110). -/
theorem mul_signed_loss_iff (a b : Quad) :
    a.toInt * b.toInt ≠ (a * b).toInt ↔ a.toInt * b.toInt < -2 ^ 63 ∨ 2 ^ 63 ≤ a.toInt * b.toInt := by
  rw [BitVec.toInt_mul]
  generalize a.toInt * b.toInt = p
  rw [Int.bmod_def]
  split <;> omega

theorem imulFlags_eq (f : Flags) (a b : Quad) :
    imulFlags f a b = { f with
      cf := decide (2 ^ 64 ≤ a.toNat * b.toNat)
      of := decide (a.toInt * b.toInt < -2 ^ 63 ∨ 2 ^ 63 ≤ a.toInt * b.toInt) } := by
  simp only [imulFlags, pat64_mul_toNat, mul_unsigned_loss_iff, mul_signed_loss_iff]

/-! ### The 128-bit product (rules R106, R107) -/

theorem toNat_wideMul (a b : Quad) : (a.setWidth 128 * b.setWidth 128).toNat = a.toNat * b.toNat := by
  have hlt : a.toNat * b.toNat < 2 ^ 128 := BitVec.toNat_mul_toNat_lt
  rw [BitVec.toNat_mul, BitVec.toNat_setWidth_of_le (by decide), BitVec.toNat_setWidth_of_le (by decide),
    Nat.mod_eq_of_lt hlt]

theorem lowQuad_wideMul (a b : Quad) :
    pat64 (a.toNat * b.toNat % 2 ^ 64 : Nat) = (a.setWidth 128 * b.setWidth 128).extractLsb' 0 64 := by
  rw [pat64_mod, BitVec.extractLsb', toNat_wideMul, Nat.shiftRight_zero]

theorem highQuad_wideMul (a b : Quad) :
    pat64 (a.toNat * b.toNat / 2 ^ 64 : Nat) = (a.setWidth 128 * b.setWidth 128).extractLsb' 64 64 := by
  rw [pat64_natCast, BitVec.extractLsb', toNat_wideMul, Nat.shiftRight_eq_div_pow]

/-! ### The signed division (rule R112) -/

/-- The quotient of `idivq` is the quotient rounded towards zero. -/
theorem idivQuotient_eq_tdiv (n d : Int) : idivQuotient n d = n.tdiv d := by
  have habs : ((n.tdiv d).natAbs : Int) = ↑(n.natAbs / d.natAbs) := congrArg _ (Int.natAbs_tdiv n d)
  rw [← Int.sign_mul_natAbs (n.tdiv d), habs, Int.sign_tdiv, idivQuotient]
  by_cases hlt : n.natAbs < d.natAbs
  · simp [Nat.div_eq_of_lt hlt]
  · rw [if_neg hlt, ← Int.sign_mul]
    rcases Int.lt_trichotomy (n * d) 0 with hneg | hzero | hpos
    · rw [if_neg (by omega), Int.sign_eq_neg_one_of_neg hneg]
    · have hquot : n.natAbs / d.natAbs = 0 := by
        rcases Int.mul_eq_zero.1 hzero with rfl | rfl <;> simp
      simp [hquot]
    · rw [if_pos hpos, Int.sign_eq_one_of_pos hpos]

/-- The remainder of `idivq` goes with that quotient. -/
theorem idivRemainder_eq_tmod (n d : Int) : idivRemainder n d = n.tmod d := by
  rw [idivRemainder, idivQuotient_eq_tdiv, Int.tmod_def]

theorem natAbs_tmod_lt {n d : Int} (hd : d ≠ 0) : (n.tmod d).natAbs < d.natAbs := by
  rw [Int.natAbs_tmod]
  exact Nat.mod_lt _ (Int.natAbs_pos.2 hd)

/-- The remainder has the sign of the dividend, or is 0. -/
theorem tmod_eq_zero_or_sign_eq (n d : Int) : n.tmod d = 0 ∨ (n.tmod d).sign = n.sign := by
  by_cases hdvd : d ∣ n
  · exact .inl (Int.tmod_eq_zero_of_dvd hdvd)
  · exact .inr (by rw [Int.sign_tmod, if_neg hdvd])

/-- Only -2^63 by -1 has a quotient above the signed range. -/
theorem idivQuotient_le (n d : Quad) (h : ¬ (n.toInt = -2 ^ 63 ∧ d.toInt = -1)) :
    idivQuotient n.toInt d.toInt ≤ 2 ^ 63 - 1 := by
  rw [idivQuotient_eq_tdiv]
  have hmin : -2 ^ 63 ≤ n.toInt := BitVec.le_toInt n
  have hmax : n.toInt < 2 ^ 63 := BitVec.toInt_lt
  have habs := Int.natAbs_tdiv_le_natAbs n.toInt d.toInt
  by_contra hbig
  have hquot : n.toInt.tdiv d.toInt = 2 ^ 63 := by omega
  have hdivision := Int.mul_tdiv_add_tmod n.toInt d.toInt
  have hne : d.toInt ≠ 0 := fun h0 => by simp [h0] at hquot
  have hrem : (n.toInt.tmod d.toInt).natAbs < d.toInt.natAbs := natAbs_tmod_lt hne
  rw [hquot] at hdivision
  omega

end Sys2Proof.Machine
end

section
/-! The obligations about integer arithmetic (rules R100 to R114): each operation once, on a first operand that is a register or
an immediate, then its two forms. -/

open Sys2Proof Sys2Proof.Machine

namespace Sys2Proof.Machine

/-! ### One lemma per operation -/

theorem addTo_completes (s : State) (a : Quad) (y z : Reg) :
    completes (s.addTo a y z) s [(z, pat64 (a.toNat + (s.reg y).toNat))] (addFlags a (s.reg y)) :=
  completes_flagged s _ z _

theorem subFrom_completes (s : State) (a : Quad) (y z : Reg) :
    completes (s.subFrom a y z) s [(z, pat64 (((s.reg y).toNat : Int) - a.toNat))] (subFlags a (s.reg y)) :=
  completes_flagged s _ z _

theorem mulBy_completes (s : State) (w : BitVec 32) (a : Quad) (y z : Reg)
    (hz : z.toNat + 1 ≤ 255 ∨ s.params.regnumOverflow = .wrap256) :
    completes (s.mulBy w a y z) s
      [(z, (a.setWidth 128 * (s.reg y).setWidth 128).extractLsb' 0 64),
        (z + 1#8, (a.setWidth 128 * (s.reg y).setWidth 128).extractLsb' 64 64)]
      { s.flags with cf := a * s.reg y == 0#64, of := a * s.reg y == 0#64 } := by
  rw [mulBy_next s w a y z hz, mulFlags_eq, lowQuad_wideMul, highQuad_wideMul]
  refine completes_advance (by simp) ?_
  exact registerResult_setReg (registerResult_setReg (setFlags_registerResult s _) _ nofun) _
    (by simp)

theorem divBy_completes (s : State) (w : BitVec 32) (a : Quad) (y z : Reg)
    (hyz : (y.toNat + 1 ≤ 255 ∧ z.toNat + 2 ≤ 255) ∨ s.params.regnumOverflow = .wrap256) (hd : a.toNat ≠ 0) :
    ∃ q r : Nat, (s.reg (y + 1#8)).toNat * 2 ^ 64 + (s.reg y).toNat = q * a.toNat + r ∧ r < a.toNat ∧
      completes (s.divBy w a y z) s
        [(z, BitVec.ofNat 64 q), (z + 1#8, BitVec.ofNat 64 (q / 2 ^ 64)), (z + 2#8, BitVec.ofNat 64 r)] s.flags := by
  refine ⟨_, _, (Nat.div_add_mod' _ a.toNat).symm, Nat.mod_lt _ (Nat.pos_of_ne_zero hd), ?_⟩
  rw [divBy_next s w a y z hyz hd _ rfl, pat64_mod, pat64_natCast, pat64_natCast]
  refine completes_advance (by simp) ?_
  exact registerResult_setReg (registerResult_setReg (registerResult_setReg (registerResult_refl s) _ nofun) _
    (by simp)) _ (by simp)

theorem imulBy_completes (s : State) (a : Quad) (y z : Reg) :
    completes (s.imulBy a y z) s [(z, a * s.reg y)] { s.flags with
      cf := decide (2 ^ 64 ≤ a.toNat * (s.reg y).toNat)
      of := decide (a.toInt * (s.reg y).toInt < -2 ^ 63 ∨ 2 ^ 63 ≤ a.toInt * (s.reg y).toInt) } := by
  rw [← imulFlags_eq, ← pat64_mul_toNat]
  exact completes_flagged s _ z _

/-- The division of rule R112: quotient towards zero, remainder of the dividend's sign. -/
theorem idivBy_completes (s : State) (w : BitVec 32) (a : Quad) (y z : Reg)
    (hz : z.toNat + 1 ≤ 255 ∨ s.params.regnumOverflow = .wrap256) (hd : a.toInt ≠ 0)
    (hfits : ¬ ((s.reg y).toInt = -2 ^ 63 ∧ a.toInt = -1) ∨ s.params.idivOverflow = .wrap) :
    ∃ q r : Int, (s.reg y).toInt = q * a.toInt + r ∧ r.natAbs < a.toInt.natAbs ∧
      (r = 0 ∨ r.sign = (s.reg y).toInt.sign) ∧
      completes (s.idivBy w a y z) s [(z, pat64 q), (z + 1#8, pat64 r)] s.flags := by
  have hno : ¬ (idivQuotient (s.reg y).toInt a.toInt > 2 ^ 63 - 1 ∧ s.params.idivOverflow = .fault) := by
    rintro ⟨hbig, hfault⟩
    rcases hfits with hpair | hwrap
    · exact absurd (idivQuotient_le _ _ hpair) (not_le.2 hbig)
    · rw [hwrap] at hfault; cases hfault
  refine ⟨_, _, (Int.tdiv_mul_add_tmod _ a.toInt).symm, natAbs_tmod_lt hd, tmod_eq_zero_or_sign_eq _ _, ?_⟩
  rw [idivBy_next s w a y z hz hd hno, idivQuotient_eq_tdiv, idivRemainder_eq_tmod]
  exact completes_advance (by simp) (registerResult_setReg
    (registerResult_setReg (registerResult_refl s) _ nofun) _ (by simp))

/-! ### The obligations -/

/-- Settles O27: the row of the opcode map, then the sum and its four flags on register `x`. -/
theorem addqRegister : Obligations.AddqRegister := by
  intro x y z s
  obtain ⟨t, hnext, -, hresult⟩ := addTo_completes s (s.reg x) y z
  exact ⟨rfl, rfl, t, hnext, addFlags_eq (s.reg x) (s.reg y) ▸ hresult⟩

/-- Settles O28: the row of the opcode map, then the difference, the borrow and the other flags on register `x`. -/
theorem subqRegister : Obligations.SubqRegister := by
  intro x y z s
  obtain ⟨t, hnext, -, hresult⟩ := subFrom_completes s (s.reg x) y z
  exact ⟨rfl, rfl, t, hnext, subFlags_eq (s.reg x) (s.reg y) ▸ hresult⟩

/-- Settles O29: sum and difference on an immediate, which is no negative quadword. -/
theorem addqSubqImmediate : Obligations.AddqSubqImmediate := by
  intro imm y z s
  have hsum : completes (exec (.addqImm imm y z) s) s _ _ := addTo_completes s (unsignedImm imm) y z
  have hdiff : completes (exec (.subqImm imm y z) s) s _ _ := subFrom_completes s (unsignedImm imm) y z
  rw [pat64_add_toNat, addFlags_eq_of_msb_false (msb_unsignedImm imm), unsignedImm_eq] at hsum
  rw [pat64_sub_toNat, subFlags_eq_of_msb_false (msb_unsignedImm imm), unsignedImm_eq] at hdiff
  exact ⟨hsum, hdiff⟩

/-- Settles O30: the product by register `x` and by an immediate, whose 128 bits are the byte's too. -/
theorem mulqProduct : Obligations.MulqProduct := by
  intro y z s hz
  refine ⟨fun x => mulBy_completes s _ (s.reg x) y z hz, fun imm => ?_⟩
  have himm : completes (exec (.mulqImm imm y z) s) s _ _ := mulBy_completes s _ (unsignedImm imm) y z hz
  have hwide : (imm.setWidth 64).setWidth 128 = imm.setWidth 128 := BitVec.setWidth_setWidth (by decide)
  rw [unsignedImm_eq, hwide] at himm
  exact himm

/-- Settles O31: the division by register `x` and by an immediate, which has the byte's value. -/
theorem divqQuotientRemainder : Obligations.DivqQuotientRemainder := by
  intro y z s hyz
  refine ⟨fun x hx => ?_, fun imm himm => ?_⟩
  · obtain ⟨q, r, hdivision, hlt, t, hnext, hpc, hresult⟩ :=
      divBy_completes s (encodeWord (.divqReg x y z)) (s.reg x) y z hyz (BitVec.toNat_ne_iff_ne.2 hx)
    exact ⟨t, q, r, hnext, hpc, hdivision, hlt, hresult⟩
  · have hd : (unsignedImm imm).toNat ≠ 0 := by rw [toNat_unsignedImm]; exact BitVec.toNat_ne_iff_ne.2 himm
    obtain ⟨q, r, hdivision, hlt, t, hnext, hpc, hresult⟩ :=
      divBy_completes s (encodeWord (.divqImm imm y z)) (unsignedImm imm) y z hyz hd
    rw [toNat_unsignedImm] at hdivision hlt
    exact ⟨t, q, r, hnext, hpc, hdivision, hlt, hresult⟩

/-- Settles O32: the product by register `x` and by a sign-extended immediate, which has the byte's signed value. -/
theorem imulqProduct : Obligations.ImulqProduct := by
  intro y z s
  refine ⟨fun x => imulBy_completes s (s.reg x) y z, fun imm => ?_⟩
  have himm : completes (exec (.imulqImm imm y z) s) s _ _ := imulBy_completes s (signedImm imm) y z
  rw [toInt_signedImm] at himm
  exact himm

/-- Settles O33: the division by register `x` and by a sign-extended immediate, which has the byte's signed value. -/
theorem idivqTruncates : Obligations.IdivqTruncates := by
  intro y z s hz
  refine ⟨fun x hx hfits => ?_, fun imm himm hfits => ?_⟩
  · obtain ⟨q, r, hdivision, hlt, hsign, t, hnext, hpc, hresult⟩ :=
      idivBy_completes s (encodeWord (.idivqReg x y z)) (s.reg x) y z hz hx hfits
    exact ⟨t, q, r, hnext, hpc, hdivision, hlt, hsign, hresult⟩
  · have hd : (signedImm imm).toInt ≠ 0 := by
      rw [toInt_signedImm]; exact BitVec.toInt_ne.2 himm
    obtain ⟨q, r, hdivision, hlt, hsign, t, hnext, hpc, hresult⟩ :=
      idivBy_completes s (encodeWord (.idivqImm imm y z)) (signedImm imm) y z hz hd (toInt_signedImm imm ▸ hfits)
    rw [toInt_signedImm] at hdivision hlt
    exact ⟨t, q, r, hnext, hpc, hdivision, hlt, hsign, hresult⟩

end Sys2Proof.Machine
end

section
/-! The spec's shifts and the flag conditions of the bitwise and shift family (rules R130 to R139) as operations on bit
vectors. -/

open Sys2Proof Sys2Proof.Machine

namespace Sys2Proof.Machine

/-! ### The shifted values, for every count (rule R139) -/

/-- From a count of 64 on no bit of the value is left: the rule's own case for such counts agrees with the shift. -/
theorem shiftLeft_eq (c : Nat) (b : Quad) : shiftLeft c b = b <<< c := by
  unfold shiftLeft
  split
  case isTrue hc => exact (BitVec.shiftLeft_eq_zero hc).symm
  case isFalse =>
    rw [pat64_natCast, Nat.mul_comm, ← Nat.shiftLeft_eq]
    rfl

theorem shiftRight_eq (c : Nat) (b : Quad) : shiftRight c b = b >>> c := by
  unfold shiftRight
  split
  case isTrue hc => exact (BitVec.ushiftRight_eq_zero hc).symm
  case isFalse =>
    rw [pat64_natCast, ← Nat.shiftRight_eq_div_pow, ← BitVec.toNat_ushiftRight, BitVec.ofNat_toNat, BitVec.setWidth_eq]

/-- From a count of 63 on the floor of the quotient is the sign alone: -1 or 0. -/
theorem floor_div_two_pow_of_ge {c : Nat} (hc : 63 ≤ c) (b : Quad) :
    b.toInt / 2 ^ c = if b.toInt < 0 then -1 else 0 := by
  have hmin : -2 ^ 63 ≤ b.toInt := BitVec.le_toInt b
  have hmax : b.toInt < 2 ^ 63 := BitVec.toInt_lt
  have hpow : (2 ^ 63 : Int) ≤ 2 ^ c := pow_le_pow_right₀ (by decide) hc
  split
  case isTrue hneg => exact Int.ediv_eq_neg_one_of_neg_of_le hneg (by omega)
  case isFalse hnonneg => exact Int.ediv_eq_zero_of_lt (by omega) (by omega)

theorem shiftRightArith_eq (c : Nat) (b : Quad) : shiftRightArith c b = b.sshiftRight c := by
  have hfloor : b.sshiftRight c = pat64 (b.toInt / 2 ^ c) := by
    rw [BitVec.sshiftRight, Int.shiftRight_eq_div_pow, pat64]
    norm_cast
  unfold shiftRightArith
  split
  case isTrue hc =>
    rw [hfloor, floor_div_two_pow_of_ge hc]
    split <;> rfl
  case isFalse => exact hfloor.symm

/-! ### The flags -/

/-- The last bit shifted out: a count of 0 and one of 64 or more have none (rule R133, D31). -/
theorem shlCarry_eq (c : Nat) (b : Quad) : shlCarry c b = (decide (1 ≤ c ∧ c ≤ 63) && b.getLsbD (64 - c)) := by
  have hbit : b.getLsbD (64 - c) = decide (b.toNat / 2 ^ (64 - c) % 2 = 1) := Nat.testBit_eq_decide_div_mod_eq
  unfold shlCarry
  split
  case isTrue hc =>
    have hrange : ¬ (1 ≤ c ∧ c ≤ 63) := by omega
    simp [hrange]
  case isFalse hc =>
    rw [← hbit]
    rcases Nat.eq_zero_or_pos c with rfl | hpos
    · exact BitVec.getLsbD_of_ge b 64 (Nat.le_refl 64)
    · have hrange : 1 ≤ c ∧ c ≤ 63 := by omega
      simp [hrange]

theorem or_beq_zero (a b : Quad) : (a ||| b == 0#64) = (a == 0#64 && b == 0#64) := by
  rw [Bool.eq_iff_iff, Bool.and_eq_true, beq_iff_eq, beq_iff_eq, beq_iff_eq, BitVec.or_eq_zero_iff]

theorem not_beq_zero (a : Quad) : (~~~a == 0#64) = (a == BitVec.allOnes 64) := by
  rw [Bool.eq_iff_iff, beq_iff_eq, beq_iff_eq, BitVec.not_eq_comm, BitVec.not_zero]

end Sys2Proof.Machine
end

section
/-! The obligations about the bitwise and shift family (rules R130 to R139): each operation once, a shift by any count, then the
instructions and their forms. -/

open Sys2Proof Sys2Proof.Machine

namespace Sys2Proof.Machine

/-! ### One lemma per operation -/

/-- An instruction that writes one register and no flag. -/
theorem completes_plain (s : State) (z : Reg) (v : Quad) : completes (.next (s.setReg z v).advance) s [(z, v)] s.flags :=
  completes_advance (by simp) (setReg_registerResult s z v)

theorem zeroFlagResult_completes (s : State) (r : Quad) (z : Reg) :
    completes (s.zeroFlagResult r z) s [(z, r)] { s.flags with zf := r == 0#64 } :=
  completes_flagged s _ z r

theorem shlBy_completes (s : State) (c : Nat) (y z : Reg) :
    completes (s.shlBy c y z) s [(z, s.reg y <<< c)]
      { s.flags with cf := decide (1 ≤ c ∧ c ≤ 63) && (s.reg y).getLsbD (64 - c) } := by
  rw [← shlCarry_eq, ← shiftLeft_eq]
  exact completes_flagged s _ z _

theorem shrBy_completes (s : State) (c : Nat) (y z : Reg) :
    completes (s.shrBy c y z) s [(z, s.reg y >>> c)] s.flags := by
  rw [← shiftRight_eq]
  exact completes_plain s z _

theorem sarBy_completes (s : State) (c : Nat) (y z : Reg) :
    completes (s.sarBy c y z) s [(z, (s.reg y).sshiftRight c)] s.flags := by
  rw [← shiftRightArith_eq]
  exact completes_plain s z _

/-! ### The obligations -/

/-- Settles O36: the left shift by the value of register `x` and by the value of an immediate (the bare name is the
model's operation). -/
theorem Shlq.shiftLeft : Obligations.ShiftLeft := fun y z s =>
  ⟨fun x => shlBy_completes s (s.reg x).toNat y z, fun imm => shlBy_completes s imm.toNat y z⟩

/-- Settles O37: the two right shifts by the value of register `x` and by the value of an immediate. -/
theorem shiftsRight : Obligations.ShiftsRight := fun y z s =>
  ⟨fun x => ⟨shrBy_completes s (s.reg x).toNat y z, sarBy_completes s (s.reg x).toNat y z⟩,
    fun imm => ⟨shrBy_completes s imm.toNat y z, sarBy_completes s imm.toNat y z⟩⟩

/-- Settles O35: the three results with their zero flag, which for OR and complement is a condition on the operands. -/
theorem andOrNot : Obligations.AndOrNot := by
  intro x y z s
  have hor := zeroFlagResult_completes s (s.reg x ||| s.reg y) z
  have hnot := zeroFlagResult_completes s (~~~(s.reg x)) y
  rw [or_beq_zero] at hor
  rw [not_beq_zero] at hnot
  exact ⟨zeroFlagResult_completes s (s.reg x &&& s.reg y) z, hor, hnot⟩

end Sys2Proof.Machine
end

section
/-! The immediates of the load-immediate family, their zero flag, and the word shifted in (rules R70, R71, R150 to R153) as
operations on bit vectors. -/

open Sys2Proof Sys2Proof.Machine

namespace Sys2Proof.Machine

/-! ### The extended immediates -/

theorem unsignedImm16_eq (imm : BitVec 16) : unsignedImm16 imm = imm.setWidth 64 := by
  rw [unsignedImm16, pat64_natCast, BitVec.ofNat_toNat]

theorem signedImm16_eq (imm : BitVec 16) : signedImm16 imm = imm.signExtend 64 := rfl

theorem setWidth_beq_zero {n : Nat} (hn : n ≤ 64) (w : BitVec n) : (w.setWidth 64 == 0#64) = (w == 0#n) := by
  rw [Bool.eq_iff_iff, beq_iff_eq, beq_iff_eq, ← BitVec.toNat_inj, ← BitVec.toNat_inj, BitVec.toNat_setWidth_of_le hn,
    BitVec.toNat_ofNat, BitVec.toNat_ofNat, Nat.zero_mod, Nat.zero_mod]

theorem signExtend_beq_zero (imm : BitVec 16) : (imm.signExtend 64 == 0#64) = (imm == 0#16) := by
  rw [Bool.eq_iff_iff, beq_iff_eq, beq_iff_eq, ← BitVec.toInt_inj, ← BitVec.toInt_inj,
    BitVec.toInt_signExtend_of_le (by decide), BitVec.toInt_zero, BitVec.toInt_zero]

/-! ### The word shifted in -/

/-- Multiplying by 2^16 modulo 2^64 and adding the immediate keeps bits 47:0 and puts the immediate below them. -/
theorem shiftInWord_eq (old : Quad) (imm : BitVec 16) : shiftInWord old imm = old.extractLsb' 0 48 ++ imm := by
  apply BitVec.eq_of_toNat_eq
  rw [shiftInWord, toNat_pat64_natCast, BitVec.toNat_append, ← Nat.shiftLeft_add_eq_or_of_lt imm.isLt,
    BitVec.extractLsb'_toNat, Nat.shiftRight_zero, Nat.shiftLeft_eq]
  have himm := imm.isLt
  omega

/-- A value of at most 48 bits loses none of them. -/
theorem extractLow48_append {n : Nat} (hn : n ≤ 48) (w : BitVec n) (imm : BitVec 16) :
    (w.setWidth 64).extractLsb' 0 48 ++ imm = (w ++ imm).setWidth 64 := by
  have hw : w.toNat < 2 ^ 48 := Nat.lt_of_lt_of_le w.isLt (Nat.pow_le_pow_right (by decide) hn)
  apply BitVec.eq_of_toNat_eq
  rw [BitVec.toNat_setWidth_of_le (by omega), BitVec.toNat_append, BitVec.toNat_append, BitVec.extractLsb'_toNat,
    BitVec.toNat_setWidth_of_le (by omega), Nat.shiftRight_zero, Nat.mod_eq_of_lt hw]

/-- Bit 48 of a value of at most 48 bits. -/
theorem getLsbD_48_setWidth {n : Nat} (hn : n ≤ 48) (w : BitVec n) : (w.setWidth 64).getLsbD 48 = false := by
  rw [BitVec.getLsbD_setWidth, BitVec.getLsbD_of_ge w 48 hn, Bool.and_false]

end Sys2Proof.Machine
end

section
/-! Instructions one after the other: the second starts where the first has left the state (rules R12, R15, R62). -/

open Sys2Proof Sys2Proof.Machine

namespace Sys2Proof.Machine

theorem execAll_cons_of_next {i : Instr} {s t : State} (h : exec i s = .next t) (is : List Instr) :
    execAll (i :: is) s = execAll is t := by
  rw [execAll, h]

theorem advanced_iff (s t : State) : advanced s t ↔ t.pc = s.pc + 4#64 := by
  rw [advanced, ← BitVec.toNat_inj, BitVec.toNat_add, BitVec.toNat_ofNat]

/-- The one register that has been written, read back. -/
theorem registerResult_reg {s t : State} {z : Reg} {v : Quad} {f : Flags} (h : registerResult s t [(z, v)] f)
    (hz : z ≠ 0#8) : t.reg z = v := by
  obtain ⟨hregs, -⟩ := h
  simp [hregs z, hz]

theorem sameOutside_trans {s t u : State} (hst : sameOutside s t) (htu : sameOutside t u) : sameOutside s u := by
  obtain ⟨hhalted, hin, hout, hwritten, hreads, hwrites, hparams, hcount⟩ := hst
  simpa only [sameOutside, hhalted, hin, hout, hwritten, hreads, hwrites, hparams, hcount] using htu

/-- Two writes to the same register: the second value stands, and the second flags. -/
theorem registerResult_overwrite {s t u : State} {z : Reg} {v w : Quad} {f g : Flags}
    (hst : registerResult s t [(z, v)] f) (htu : registerResult t u [(z, w)] g) : registerResult s u [(z, w)] g := by
  obtain ⟨hregs, -, hmem, hout⟩ := hst
  obtain ⟨hregs', hflags', hmem', hout'⟩ := htu
  refine ⟨fun r => ?_, hflags', fun a => (hmem' a).trans (hmem a), sameOutside_trans hout hout'⟩
  rw [hregs' r, hregs r]
  by_cases hrz : r = z
  · simp [hrz]
  · have hne : (r == z) = false := by simp [hrz]
    by_cases hr : r = 0#8 <;> simp [hr, hne, List.lookup]

end Sys2Proof.Machine
end

section
/-! The obligations about the load-immediate family (rules R150 to R153). -/

open Sys2Proof Sys2Proof.Machine

namespace Sys2Proof.Machine

/-! ### One lemma per operation -/

theorem execLdzwq_completes (imm : BitVec 16) (z : Reg) (s : State) :
    completes (exec (.ldzwq imm z) s) s [(z, imm.setWidth 64)] { s.flags with zf := imm == 0#16 } := by
  rw [← setWidth_beq_zero (by decide) imm, ← unsignedImm16_eq]
  exact zeroFlagResult_completes s (unsignedImm16 imm) z

theorem execLdsq_completes (imm : BitVec 16) (z : Reg) (s : State) :
    completes (exec (.ldsq imm z) s) s [(z, imm.signExtend 64)] { s.flags with zf := imm == 0#16 } := by
  rw [← signExtend_beq_zero imm, ← signedImm16_eq]
  exact zeroFlagResult_completes s (signedImm16 imm) z

theorem execShldwq_completes (imm : BitVec 16) (z : Reg) (s : State) :
    completes (exec (.shldwq imm z) s) s [(z, (s.reg z).extractLsb' 0 48 ++ imm)]
      { s.flags with
        zf := ((s.reg z).extractLsb' 0 48 ++ imm : Quad) == 0#64
        cf := (s.reg z).getLsbD 48 } := by
  rw [← shiftInWord_eq]
  exact completes_flagged s _ z _

/-- `shldwq` on a register that holds the constant `w` of at most 48 bits: it appends the immediate to the constant, and CF is
0 because bit 48 was (rules R152, R153; log 51). -/
theorem execShldwq_appends {n : Nat} (hn : n ≤ 48) {s t : State} {z : Reg} (hz : z ≠ 0#8) {w : BitVec n} {f : Flags}
    (h : registerResult s t [(z, w.setWidth 64)] f) (imm : BitVec 16) :
    ∃ u, exec (.shldwq imm z) t = .next u ∧ u.pc = t.pc + 4#64 ∧
      registerResult s u [(z, (w ++ imm).setWidth 64)] { f with zf := w ++ imm == 0#(n + 16), cf := false } := by
  obtain ⟨u, hnext, hpc, hresult⟩ := execShldwq_completes imm z t
  have ⟨_, hflags, _⟩ := h
  rw [registerResult_reg h hz, extractLow48_append hn, getLsbD_48_setWidth hn, setWidth_beq_zero (by omega), hflags]
    at hresult
  exact ⟨u, hnext, (advanced_iff t u).1 hpc, registerResult_overwrite h hresult⟩

/-! ### The obligations -/

/-- Settles O38: each load with its own extension of the immediate. -/
theorem loadImmediate : Obligations.LoadImmediate := fun imm z s =>
  ⟨execLdzwq_completes imm z s, execLdsq_completes imm z s⟩

/-- Settles O39, by the one lemma about `shldwq` (the bare name is the model's operation). -/
theorem Shldwq.shiftInWord : Obligations.ShiftInWord := execShldwq_completes

/-- Settles O40: the constant grows by one word per instruction, from `w3` to all four. -/
theorem constantInFourInstructions : Obligations.ConstantInFourInstructions := by
  intro w3 w2 w1 w0 z s hz
  obtain ⟨t₁, hnext₁, hpc₁, h₁⟩ := execLdzwq_completes w3 z s
  obtain ⟨t₂, hnext₂, hpc₂, h₂⟩ := execShldwq_appends (by decide) hz h₁ w2
  obtain ⟨t₃, hnext₃, hpc₃, h₃⟩ := execShldwq_appends (by decide) hz h₂ w1
  obtain ⟨t₄, hnext₄, hpc₄, h₄⟩ := execShldwq_appends (by decide) hz h₃ w0
  have hrun : execAll [.ldzwq w3 z, .shldwq w2 z, .shldwq w1 z, .shldwq w0 z] s = .next t₄ := by
    rw [execAll_cons_of_next hnext₁, execAll_cons_of_next hnext₂, execAll_cons_of_next hnext₃,
      execAll_cons_of_next hnext₄, execAll]
  have hpc : t₄.pc = s.pc + 16#64 := by
    rw [hpc₄, hpc₃, hpc₂, (advanced_iff s t₁).1 hpc₁]
    simp [BitVec.add_assoc]
  have hwhole : (w3 ++ w2 ++ w1 ++ w0).setWidth 64 = w3 ++ w2 ++ w1 ++ w0 := BitVec.setWidth_eq _
  exact ⟨t₄, hrun, hwhole ▸ h₄, hpc⟩

end Sys2Proof.Machine
end

section
/-! What the jumps do (rules R160 to R172): their targets, what they write, and the flags that a condition reads. -/

open Sys2Proof Sys2Proof.Machine

namespace Sys2Proof.Machine

/-! ### The targets -/

theorem nextPc_eq (s : State) : s.nextPc = s.pc + 4#64 := pat64_add_toNat s.pc 4#64

/-- The byte offset of a relative jump is added to `pc` as a signed number (rule R160 (c)). -/
theorem relTarget_eq (s : State) (rel : BitVec 26) : s.relTarget rel = s.pc + rel.signExtend 64 := by
  rw [State.relTarget, pat64, BitVec.ofInt_add, ← pat64, pat64_toNat]
  rfl

/-- Two zero bits below a count of instructions make it a count of bytes (rule R72). -/
theorem toInt_append_two_zeros (count : BitVec 24) : (count ++ 0#2).toInt = 4 * count.toInt := by
  have hbytes : (count ++ 0#2).toNat = 4 * count.toNat := by
    rw [BitVec.toNat_append, BitVec.toNat_ofNat, Nat.shiftLeft_eq]
    simp [Nat.mul_comm]
  rw [BitVec.toInt_eq_toNat_cond, BitVec.toInt_eq_toNat_cond, hbytes]
  have := count.isLt
  split <;> split <;> omega

theorem encodeWord_jmpRel (x y z : Byte) : encodeWord (.jmpRel (x ++ y ++ z ++ 0#2)) = 0x41#8 ++ x ++ y ++ z := by
  simp only [encodeWord, Instr.opcode, Instr.operandBytes, rel_byte_x, rel_byte_y, rel_byte_z]

/-! ### The state after a jump -/

theorem registerResult_setPc {s t : State} {ws : List (Reg × Quad)} {f : Flags} (h : registerResult s t ws f) (a : Addr) :
    registerResult s (t.setPc a) ws f := h

/-- `jmp %x, %y` where its registers are not refused: the link is written, then `pc` is the content `x` had (rule R161). -/
theorem execJmpReg_next {x y : Reg} {s : State} (h : x ≠ y ∨ x = 0#8 ∨ s.params.jmpSameReg = .readFirst) :
    exec (.jmpReg x y) s = .next ((s.setReg y s.nextPc).setPc (s.reg x)) := by
  refine if_neg ?_
  rintro ⟨hxy, hx, hrefuse⟩
  rcases h with hne | hzero | hfirst
  · exact hne hxy
  · exact hx hzero
  · rw [hfirst] at hrefuse
    cases hrefuse

theorem execJmpReg_completes {x y : Reg} {s : State} (h : x ≠ y ∨ x = 0#8 ∨ s.params.jmpSameReg = .readFirst) :
    ∃ t, exec (.jmpReg x y) s = .next t ∧ t.pc = s.reg x ∧ registerResult s t [(y, s.pc + 4#64)] s.flags :=
  ⟨_, execJmpReg_next h, rfl, registerResult_setPc (nextPc_eq s ▸ setReg_registerResult s y s.nextPc) _⟩

/-- `jmp %x, %0` links nowhere: it writes no register. -/
theorem execJmpReg_zero_completes {x : Reg} (hx : x ≠ 0#8) (s : State) :
    ∃ t, exec (.jmpReg x 0#8) s = .next t ∧ t.pc = s.reg x ∧ registerResult s t [] s.flags :=
  ⟨_, execJmpReg_next (.inl hx), rfl, registerResult_setPc (registerResult_refl s) _⟩

/-! ### The conditional jumps -/

/-- `jump` completes in `s`, goes `rel` bytes on where `taken` holds and advances elsewhere, and changes `pc` alone. -/
def jumpsExactlyWhere (jump : Instr) (rel : BitVec 26) (s : State) (taken : Prop) : Prop :=
  ∃ t, exec jump s = .next t ∧ (taken → t.pc = s.pc + rel.signExtend 64) ∧ (¬ taken → t.pc = s.pc + 4#64) ∧
    registerResult s t [] s.flags

/-- A jump whose condition on the flags says `taken`. -/
theorem jumpsExactlyWhere_of_cond {jump : Instr} {rel : BitVec 26} {s : State} {cond : Bool} {taken : Prop}
    (hjump : exec jump s = s.jumpIf cond rel) (hcond : cond = true ↔ taken) : jumpsExactlyWhere jump rel s taken := by
  refine ⟨_, hjump.trans (jumpIf_eq s cond rel), fun htaken => ?_, fun hnot => ?_,
    registerResult_setPc (registerResult_refl s) _⟩
  · rw [hcond.2 htaken, State.setPc_pc, if_pos rfl, relTarget_eq]
  · rw [Bool.eq_false_of_not_eq_true (mt hcond.1 hnot), State.setPc_pc, if_neg Bool.false_ne_true, nextPc_eq]

section Conditions

variable (f : Flags)

theorem condE_iff : condE f = true ↔ f.zf = true := Iff.rfl
theorem condNe_iff : condNe f = true ↔ f.zf = false := by simp [condNe]
theorem condL_iff : condL f = true ↔ f.sf ≠ f.of := by simp [condL]
theorem condGe_iff : condGe f = true ↔ f.sf = f.of := by simp [condGe]
theorem condLe_iff : condLe f = true ↔ f.zf = true ∨ f.sf ≠ f.of := by simp [condLe]
theorem condG_iff : condG f = true ↔ f.zf = false ∧ f.sf = f.of := by simp [condG]
theorem condB_iff : condB f = true ↔ f.cf = true := Iff.rfl
theorem condAe_iff : condAe f = true ↔ f.cf = false := by simp [condAe]
theorem condNa_iff : condNa f = true ↔ f.cf = true ∨ f.zf = true := by simp [condNa]
theorem condA_iff : condA f = true ↔ f.cf = false ∧ f.zf = false := by simp [condA]

end Conditions

/-! ### What the flags of `subq` say of minuend `a` and subtrahend `b` (rules R104, R173) -/

section Compare

variable (a b : Quad)

theorem subFlags_zf_iff : (subFlags b a).zf = true ↔ a = b := by
  simp only [subFlags, pat64_sub_toNat, decide_eq_true_eq]
  exact sub_eq_zero

theorem subFlags_cf_iff : (subFlags b a).cf = true ↔ a.toNat < b.toNat := by
  simp [subFlags]

/-- SF is the sign of the difference, and OF says that this sign is wrong. -/
theorem subFlags_sf_ne_of_iff : (subFlags b a).sf ≠ (subFlags b a).of ↔ a.toInt < b.toInt := by
  have hsf : (subFlags b a).sf = decide ((a.toInt - b.toInt).bmod (2 ^ 64) < 0) := by
    rw [← BitVec.toInt_sub, ← BitVec.msb_eq_toInt, BitVec.msb_eq_decide, ← pat64_sub_toNat]
    rfl
  have hof : (subFlags b a).of = decide (a.toInt - b.toInt < -2 ^ 63 ∨ a.toInt - b.toInt ≥ 2 ^ 63) := by
    rw [subFlags_eq]
  have hamin : -2 ^ 63 ≤ a.toInt := BitVec.le_toInt a
  have hamax : a.toInt < 2 ^ 63 := BitVec.toInt_lt
  have hbmin : -2 ^ 63 ≤ b.toInt := BitVec.le_toInt b
  have hbmax : b.toInt < 2 ^ 63 := BitVec.toInt_lt
  rw [hsf, hof, Ne, decide_eq_decide, Int.bmod_def]
  split <;> omega

theorem subFlags_zf_eq_false_iff : (subFlags b a).zf = false ↔ a ≠ b := by
  rw [← Bool.not_eq_true, subFlags_zf_iff]

theorem subFlags_cf_eq_false_iff : (subFlags b a).cf = false ↔ b.toNat ≤ a.toNat := by
  rw [← Bool.not_eq_true, subFlags_cf_iff, not_lt]

theorem subFlags_sf_eq_of_iff : (subFlags b a).sf = (subFlags b a).of ↔ b.toInt ≤ a.toInt := by
  rw [← not_lt, ← subFlags_sf_ne_of_iff, not_not]

theorem condLe_subFlags : condLe (subFlags b a) = true ↔ a.toInt ≤ b.toInt := by
  rw [condLe_iff, subFlags_zf_iff, subFlags_sf_ne_of_iff, ← BitVec.toInt_inj, le_iff_eq_or_lt]

theorem condG_subFlags : condG (subFlags b a) = true ↔ b.toInt < a.toInt := by
  rw [condG_iff, subFlags_zf_eq_false_iff, subFlags_sf_eq_of_iff, ← BitVec.toInt_ne, lt_iff_le_and_ne, and_comm, ne_comm]

theorem condNa_subFlags : condNa (subFlags b a) = true ↔ a.toNat ≤ b.toNat := by
  rw [condNa_iff, subFlags_cf_iff, subFlags_zf_iff, ← BitVec.toNat_inj, le_iff_lt_or_eq]

theorem condA_subFlags : condA (subFlags b a) = true ↔ b.toNat < a.toNat := by
  rw [condA_iff, subFlags_cf_eq_false_iff, subFlags_zf_eq_false_iff, ← BitVec.toNat_ne_iff_ne, lt_iff_le_and_ne, ne_comm]

end Compare

end Sys2Proof.Machine
end

section
/-! The obligations about the jumps (rules R160 to R174). -/

open Sys2Proof Sys2Proof.Machine

namespace Sys2Proof.Machine

/-! ### A compare and the jump behind it -/

/-- `cmp` completes, advances and leaves the flags of `a - b`. -/
def compares (cmp : Instr) (s : State) (a b : Quad) : Prop :=
  ∃ t, exec cmp s = .next t ∧ t.pc = s.pc + 4#64 ∧ t.flags = subFlags b a

/-- A result that completes with the flags of `a - b` compares `a` and `b`. -/
theorem compares_of_completes {cmp : Instr} {s : State} {a b : Quad} {ws : List (Reg × Quad)}
    (h : completes (exec cmp s) s ws (subFlags b a)) : compares cmp s a b := by
  obtain ⟨t, hnext, hpc, -, hflags, -⟩ := h
  exact ⟨t, hnext, (advanced_iff s t).1 hpc, hflags⟩

/-- Both forms of `subq` compare the content of register `y` with their first operand. -/
theorem subq_compares {cmp : Instr} {a b : Quad} {s : State}
    (h : (∃ x y z, cmp = .subqReg x y z ∧ a = s.reg y ∧ b = s.reg x) ∨
      ∃ imm y z, cmp = .subqImm imm y z ∧ a = s.reg y ∧ b = imm.setWidth 64) : compares cmp s a b := by
  rcases h with ⟨x, y, z, rfl, rfl, rfl⟩ | ⟨imm, y, z, rfl, rfl, rfl⟩
  · exact compares_of_completes (subFrom_completes s (s.reg x) y z)
  · rw [← unsignedImm_eq]
    exact compares_of_completes (subFrom_completes s (unsignedImm imm) y z)

/-- A jump behind a compare, whose condition on the flags of `a - b` says `taken`. -/
theorem jump_after_compare {cmp jump : Instr} {s : State} {a b : Quad} {rel : BitVec 26} {cond : Flags → Bool}
    {taken : Prop} (hcmp : compares cmp s a b) (hjump : ∀ t, exec jump t = t.jumpIf (cond t.flags) rel)
    (hcond : cond (subFlags b a) = true ↔ taken) :
    ∃ t, execAll [cmp, jump] s = .next t ∧ (taken → t.pc = s.pc + 4#64 + rel.signExtend 64) ∧
      (¬ taken → t.pc = s.pc + 8#64) := by
  obtain ⟨t, hnext, hpc, hflags⟩ := hcmp
  obtain ⟨u, hnext', htaken, hnot, -⟩ := jumpsExactlyWhere_of_cond (hjump t) (hflags ▸ hcond)
  rw [hpc] at htaken hnot
  rw [BitVec.add_assoc] at hnot
  exact ⟨u, by rw [execAll_cons_of_next hnext, execAll_cons_of_next hnext', execAll], htaken, hnot⟩

/-! ### The obligations -/

/-- Settles O42: the three bytes with two zero bits below them are the offset, four times their signed value. -/
theorem relativeJump : Obligations.RelativeJump := by
  intro x y z s
  have hoffset := toInt_append_two_zeros (x ++ y ++ z)
  have htarget : ((s.relTarget (x ++ y ++ z ++ 0#2)).toNat : Int) =
      (s.pc.toNat + 4 * (x ++ y ++ z).toInt) % 2 ^ 64 := by
    rw [← hoffset]
    exact toNat_pat64 _
  exact ⟨x ++ y ++ z ++ 0#2, rfl, encodeWord_jmpRel x y z, hoffset, _, rfl, htarget,
    registerResult_setPc (registerResult_refl s) _⟩

/-- Settles O44: after the compare each condition reads the order of `a` and `b` off the flags of `a - b`. -/
theorem compareThenJump : Obligations.CompareThenJump := by
  intro cmp a b rel s hsubq
  have hcmp := subq_compares hsubq
  simp only [List.forall_mem_cons]
  exact ⟨jump_after_compare hcmp (cond := condE) (fun _ => rfl) ((condE_iff _).trans (subFlags_zf_iff a b)),
    jump_after_compare hcmp (cond := condNe) (fun _ => rfl) ((condNe_iff _).trans (subFlags_zf_eq_false_iff a b)),
    jump_after_compare hcmp (cond := condL) (fun _ => rfl) ((condL_iff _).trans (subFlags_sf_ne_of_iff a b)),
    jump_after_compare hcmp (cond := condGe) (fun _ => rfl) ((condGe_iff _).trans (subFlags_sf_eq_of_iff a b)),
    jump_after_compare hcmp (cond := condLe) (fun _ => rfl) (condLe_subFlags a b),
    jump_after_compare hcmp (cond := condG) (fun _ => rfl) (condG_subFlags a b),
    jump_after_compare hcmp (cond := condB) (fun _ => rfl) ((condB_iff _).trans (subFlags_cf_iff a b)),
    jump_after_compare hcmp (cond := condAe) (fun _ => rfl) ((condAe_iff _).trans (subFlags_cf_eq_false_iff a b)),
    jump_after_compare hcmp (cond := condNa) (fun _ => rfl) (condNa_subFlags a b),
    jump_after_compare hcmp (cond := condA) (fun _ => rfl) (condA_subFlags a b), nofun⟩

/-- Settles O45: the link register holds the address after the call, and the return jumps to what it holds. -/
theorem callAndReturn : Obligations.CallAndReturn := by
  intro x y s hy hxy
  obtain ⟨t, hcall, htarget, hresult⟩ := execJmpReg_completes (s := s) (.inl hxy)
  refine ⟨t, hcall, htarget, hresult, fun u hlink => ?_⟩
  obtain ⟨v, hreturn, hback, hkept⟩ := execJmpReg_zero_completes hy u
  exact ⟨v, hreturn, by rw [hback, hlink, registerResult_reg hresult hy], hkept⟩

/-- Settles O41: the two cases of the test for a refused pair of registers. -/
theorem jumpToRegister : Obligations.JumpToRegister := fun _ _ _ =>
  ⟨execJmpReg_completes, fun hxy hx hrefuse => if_pos ⟨hxy, hx, hrefuse⟩⟩

/-- Settles O43: each jump by the flags its condition reads. -/
theorem conditionalJumps : Obligations.ConditionalJumps := by
  intro rel s
  simp only [List.forall_mem_cons]
  exact ⟨jumpsExactlyWhere_of_cond rfl (condE_iff _), jumpsExactlyWhere_of_cond rfl (condNe_iff _),
    jumpsExactlyWhere_of_cond rfl (condL_iff _), jumpsExactlyWhere_of_cond rfl (condGe_iff _),
    jumpsExactlyWhere_of_cond rfl (condLe_iff _), jumpsExactlyWhere_of_cond rfl (condG_iff _),
    jumpsExactlyWhere_of_cond rfl (condB_iff _), jumpsExactlyWhere_of_cond rfl (condAe_iff _),
    jumpsExactlyWhere_of_cond rfl (condNa_iff _), jumpsExactlyWhere_of_cond rfl (condA_iff _), nofun⟩

end Sys2Proof.Machine
end

section
/-! The obligations about the loads (rules R46, R190 to R225): what a load does wherever its access is in order, then the two
extensions, then the instructions in their five address forms. -/

open Sys2Proof Sys2Proof.Machine

namespace Sys2Proof.Machine

/-! ### The load -/

/-- A load in order is the write of the extended datum to its register, and the advance. -/
theorem load_completes {s : State} {a : Addr} {n : Nat} (h : accessible s a n) (extend : Nat → Quad) (z : Reg) :
    completes (s.load a n extend z) s [(z, extend (datum s.mem a n))] s.flags := by
  rw [load_next s a n extend z h, bigEndianValue_readBytes]
  exact completes_plain s z _

/-- An instruction that is a load completes wherever its access is in order. -/
theorem loadCompletes_of_exec_eq_load {i : Instr} {a : State → Addr} {n : Nat} {extend : Nat → Quad} {z : Reg}
    (h : ∀ s, exec i s = s.load (a s) n extend z) : loadCompletes i a n extend z := by
  intro s haccess
  obtain ⟨t, hnext, hpc, hresult⟩ := load_completes haccess extend z
  exact ⟨t, (h s).trans hnext, hresult, hpc⟩

/-! ### The two extensions (rule R46) -/

theorem zeroExtend_eq : zeroExtend = BitVec.ofNat 64 := funext pat64_natCast

theorem signExtend_eq (n : Nat) : signExtend n = signExtended (8 * n) := rfl

theorem loadCompletes_zeroExtended {i : Instr} {a : State → Addr} {n : Nat} {z : Reg}
    (h : ∀ s, exec i s = s.load (a s) n zeroExtend z) : loadCompletes i a n (BitVec.ofNat 64) z := by
  rw [← zeroExtend_eq]
  exact loadCompletes_of_exec_eq_load h

theorem loadCompletes_signExtended {i : Instr} {a : State → Addr} {n : Nat} {z : Reg}
    (h : ∀ s, exec i s = s.load (a s) n (signExtend n) z) : loadCompletes i a n (signExtended (8 * n)) z := by
  rw [← signExtend_eq]
  exact loadCompletes_of_exec_eq_load h

/-! ### The obligations -/

/-- Settles O46: in each address form `movq` is a load of 8 bytes, whose zero extension is the quad itself. -/
theorem loadQuad : Obligations.LoadQuad := by
  intro x y z d
  and_intros <;> exact loadCompletes_zeroExtended fun _ => rfl

/-- Settles O47: three widths in five address forms, each a load with zero extension by the instruction's meaning. -/
theorem loadZeroExtended : Obligations.LoadZeroExtended := by
  intro x y z d
  and_intros <;> exact loadCompletes_zeroExtended fun _ => rfl

/-- Settles O48: three widths in five address forms, each a load with sign extension from its own width. -/
theorem loadSignExtended : Obligations.LoadSignExtended := by
  intro x y z d
  and_intros <;> exact loadCompletes_signExtended fun _ => rfl

end Sys2Proof.Machine
end

section
/-! The obligations about the stores (rules R46, R240 to R260): what a store does wherever its access is in order, then the
instructions in their five address forms. -/

open Sys2Proof Sys2Proof.Machine

namespace Sys2Proof.Machine

/-! ### The store -/

/-- New memory and the advance: no register, no flag and nothing outside changes. -/
theorem setMem_advance_keeps (s : State) (m : Memory) :
    registersAfter s ({ s with mem := m } : State).advance [] ∧ ({ s with mem := m } : State).advance.flags = s.flags ∧
      sameOutside s ({ s with mem := m } : State).advance ∧ advanced s ({ s with mem := m } : State).advance :=
  ⟨registersAfter_nil s _ fun _ => rfl, rfl, by simp [sameOutside], toNat_nextPc s⟩

/-- A store in order leaves its bytes in memory, keeps all else and advances. -/
theorem store_completes {s : State} {a : Addr} {n : Nat} (hn : n ≤ 8) (hm : Memory.wf s.mem) (h : accessible s a n)
    (x : Reg) :
    ∃ t, s.store a n x = .next t ∧ storedAt s t a n (s.reg x) ∧ registersAfter s t [] ∧ t.flags = s.flags ∧
      sameOutside s t ∧ advanced s t :=
  ⟨_, store_next s a n x h, storedAt_writeBytes s _ a n (s.reg x) (hn.trans (by decide)) hm rfl, setMem_advance_keeps s _⟩

/-- An instruction that is a store completes wherever its access is in order. -/
theorem storeCompletes_of_exec_eq_store {i : Instr} {a : State → Addr} {n : Nat} {x : Reg} (hn : n ≤ 8)
    (h : ∀ s, exec i s = s.store (a s) n x) : storeCompletes i a n x := by
  intro s hm haccess
  rw [h s]
  exact store_completes hn hm haccess x

/-! ### The obligations -/

/-- Settles O49: two widths in five address forms, each a store by the instruction's meaning. -/
theorem storeQuadAndLong : Obligations.StoreQuadAndLong := by
  intro x y z d
  and_intros <;> exact storeCompletes_of_exec_eq_store (by decide) fun _ => rfl

/-- Settles O50: the two narrower widths, each a store by the instruction's meaning. -/
theorem storeWordAndByte : Obligations.StoreWordAndByte := by
  intro x y z d
  and_intros <;> exact storeCompletes_of_exec_eq_store (by decide) fun _ => rfl

end Sys2Proof.Machine
end

section
/-! The obligations about `halt`, `getc`, `putc` and `nop` (rules R270 to R275): an instruction that ends a run, those that meet
a device, and the one without effect. -/

open Sys2Proof Sys2Proof.Machine

namespace Sys2Proof.Machine

/-! ### `halt` (rules R270, R271) -/

/-- One byte is always aligned: it can be accessed where it exists. -/
theorem accessible_one_iff (s : State) (a : Addr) : accessible s a 1 ↔ inMap s.params.memValid a.toNat = true := by
  simp [accessible, Nat.mod_one]

theorem haltWith_noCell {s : State} (hcell : s.params.haltExitCell = none) (c : Byte) :
    s.haltWith c = .next { s with halted := some c } := by
  simp only [State.haltWith, hcell]

theorem haltWith_cell {s : State} {cell : Addr} (hcell : s.params.haltExitCell = some cell)
    (hexists : inMap s.params.memValid cell.toNat = true) (c : Byte) :
    s.haltWith c = .next { s with
      mem := Memory.writeBytes s.mem cell (bigEndianBytes 1 (c.setWidth 64)), halted := some c } := by
  simp only [State.haltWith, hcell, memWrite_ok s cell 1 _ ((accessible_one_iff s cell).2 hexists)]

theorem haltWith_missingCell {s : State} {cell : Addr} (hcell : s.params.haltExitCell = some cell)
    (hmissing : inMap s.params.memValid cell.toNat = false) (c : Byte) :
    s.haltWith c = .fault (.memoryAccessFault cell 1 .write) := by
  have hcheck : s.checkAccess cell 1 .write = .error (.memoryAccessFault cell 1 .write) :=
    checkAccess_invalid s cell 1 .write (Nat.mod_one _) (by simp [hmissing])
  simp only [State.haltWith, hcell, State.memWrite, hcheck, raise]

/-- The low byte of a register, cut out or truncated. -/
theorem lowByte_eq (v : Quad) : v.extractLsb' 0 8 = v.setWidth 8 :=
  (BitVec.setWidth_eq_extractLsb' (by decide)).symm

/-- Settles O52: both forms halt with their byte, whose three cases are those of the exit cell. -/
theorem haltEndsTheRun : Obligations.HaltEndsTheRun := by
  intro x s halt hform
  have hexec : exec halt.1 s = s.haltWith halt.2 := by
    rcases List.mem_pair.1 hform with rfl | rfl
    · exact congrArg s.haltWith (lowByte_eq (s.reg x)).symm
    · rfl
  rw [hexec]
  refine ⟨fun hcell => haltWith_noCell hcell _, fun cell hcell => ⟨fun hm hexists => ?_, fun hmissing => ?_⟩⟩
  · exact ⟨_, haltWith_cell hcell hexists _, rfl, storedAt_writeBytes s _ cell 1 _ (by decide) hm rfl⟩
  · exact haltWith_missingCell hcell hmissing _

/-! ### `getc` (rule R272) -/

/-- The byte read is the low byte of what `getc` writes; GETC_UPPER fixes the bits above it, but for `any`. -/
theorem getcValue_cases (s : State) (x : Reg) (b : Byte) :
    ∃ upper : BitVec 56, s.getcValue x b = upper ++ b ∧ (s.params.getcUpper = .zero → upper = 0#56) ∧
      (s.params.getcUpper = .preserve → upper = (s.reg x).extractLsb' 8 56) := by
  unfold State.getcValue
  cases s.params.getcUpper with
  | zero => exact ⟨0#56, BitVec.setWidth_eq_append (by decide), fun _ => rfl, nofun⟩
  | preserve => exact ⟨_, rfl, nofun, fun _ => rfl⟩
  | any => exact ⟨_, rfl, nofun, nofun⟩

theorem execGetc_waits {s : State} (hinput : s.input = []) (x : Reg) : exec (.getc x) s = .next s := by
  simp only [exec, execGetc, hinput]

theorem execGetc_takes {s : State} {b : Byte} {rest : List Byte} (hinput : s.input = b :: rest) (x : Reg) :
    exec (.getc x) s = .next ({ s.tookGetcBits with input := rest }.setReg x (s.getcValue x b)).advance := by
  simp only [exec, execGetc, hinput]

/-- Registers after one register write and the advance, in a state that had the registers of `s`. -/
theorem registersAfter_setReg_advance {s u : State} (hregs : u.regs = s.regs) (z : Reg) (v : Quad) :
    registersAfter s (u.setReg z v).advance [(z, v)] :=
  registersAfter_one s _ z v fun r => by
    rw [State.reg_advance, State.reg_setReg, State.reg_setReg, State.reg_congr u s hregs]

/-- Settles O53: without a byte the wait; with one, GETC_UPPER decides the bits above it. -/
theorem getcTakesOrWaits : Obligations.GetcTakesOrWaits := by
  intro x s
  refine ⟨fun hinput => execGetc_waits hinput x, fun b rest hinput => ?_⟩
  obtain ⟨upper, hvalue, hzero, hpreserve⟩ := getcValue_cases s x b
  refine ⟨_, upper, execGetc_takes hinput x, ?_, hzero, hpreserve, ?_⟩
  · rw [← hvalue]
    exact registersAfter_setReg_advance (by simp) x _
  · simp [advanced, toNat_nextPc]

/-! ### `putc` (rules R273, R274) and `nop` (rule R275) -/

/-- Settles O54: both forms are the output of a byte and the advance. -/
theorem putcAppendsOutput : Obligations.PutcAppendsOutput := by
  intro x y z s
  refine ⟨rfl, rfl, ?_, rfl⟩
  rw [lowByte_eq]
  rfl

/-- Settles O55: `nop` is the advance alone. -/
theorem nopOnlyAdvances : Obligations.NopOnlyAdvances := fun _ _ _ _ => ⟨rfl, rfl⟩

end Sys2Proof.Machine
end

section
/-! The obligations about `trap` (rules R280 to R284): where it stops, and what its two described services leave behind for each
answer of the environment. -/

open Sys2Proof Sys2Proof.Machine

namespace Sys2Proof.Machine

/-! ### The service and its parameter block -/

section Dispatch

variable {x y : Reg} {s : State}

theorem exec_trap_unknown (h : s.params.trapTable.lookup (s.reg x).toNat = none) (z : Reg) :
    exec (.trap x y z) s = .fault (.unknownTrap s.pc (s.reg x).toNat) := by
  simp only [exec, execTrap, h, raise]

theorem exec_trap_undescribed (h : s.params.trapTable.lookup (s.reg x).toNat = some .undescribed) (z : Reg) :
    exec (.trap x y z) s = .refused (.undescribedService s.pc (s.reg x).toNat) := by
  simp only [exec, execTrap, h]

/-- Both described services read their block first. -/
theorem exec_trap_badBlock
    (h : s.params.trapTable.lookup (s.reg x).toNat = some .read ∨ s.params.trapTable.lookup (s.reg x).toNat = some .write)
    {f : Fault} (hblock : s.request (s.reg y) = .error f) (z : Reg) : exec (.trap x y z) s = .fault f := by
  rcases h with h | h <;> simp only [exec, execTrap, h, hblock, raise]

theorem exec_trap_read (h : s.params.trapTable.lookup (s.reg x).toNat = some .read) (hblock : blockReadable s (s.reg y))
    (z : Reg) : exec (.trap x y z) s = s.serveRead (blockAt s (s.reg y)) z := by
  simp only [exec, execTrap, h, request_blockAt s _ hblock]

theorem exec_trap_write (h : s.params.trapTable.lookup (s.reg x).toNat = some .write) (hblock : blockReadable s (s.reg y))
    (z : Reg) : exec (.trap x y z) s = s.serveWrite (blockAt s (s.reg y)) z := by
  simp only [exec, execTrap, h, request_blockAt s _ hblock]

end Dispatch

theorem request_misaligned {s : State} {p : Addr} (h : p.toNat % 8 ≠ 0) :
    s.request p = .error (.misalignedAccess p 8) :=
  if_pos h

theorem request_missing {s : State} {p : Addr} (halign : p.toNat % 8 = 0) (hmissing : ¬ bytesExist s p 24) :
    s.request p = .error (.memoryAccessFault p 24 .read) := by
  have hvalid : ¬ s.valid p blockSize = true := fun h => hmissing ((valid_iff s p 24).1 h)
  rw [State.request, if_neg (not_not.2 halign), if_neg hvalid, blockSize]

/-- Settles O58: the stops of `trap` in the order of its checks. -/
theorem trapStops : Obligations.TrapStops := by
  intro x y z s
  refine ⟨fun hnone => exec_trap_unknown hnone z, fun hund => exec_trap_undescribed hund z, fun hserved => ⟨?_, ?_⟩,
    fun hblock i hmissing => ⟨?_, ?_⟩⟩
  · exact fun hmis => exec_trap_badBlock hserved (request_misaligned hmis) z
  · exact fun halign hmissing => exec_trap_badBlock hserved (request_missing halign hmissing) z
  · intro hread bytes hanswer hi
    rw [exec_trap_read hread hblock, serveRead_stops s _ z bytes i hanswer hi hmissing]
  · intro hwrite hi
    rw [exec_trap_write hwrite hblock, serveWrite_stops s _ z i hi hmissing]

/-! ### A service that returns -/

/-- One answer is used: the first prepared one, if there is one. -/
theorem tookReadAnswer_readAnswers (s : State) : s.tookReadAnswer.readAnswers = s.readAnswers.tail := by
  cases h : s.readAnswers <;> simp [State.tookReadAnswer, h]

theorem tookWriteAnswer_writeAnswers (s : State) : s.tookWriteAnswer.writeAnswers = s.writeAnswers.tail := by
  cases h : s.writeAnswers <;> simp [State.tookWriteAnswer, h]

/-- A register write and the advance change the register file and `pc` alone. -/
theorem setReg_advance_eq (u : State) (z : Reg) (v : Quad) :
    (u.setReg z v).advance = { u with regs := (u.setReg z v).regs, pc := u.pc + 4#64 } := by
  have hreg : u.setReg z v = { u with regs := (u.setReg z v).regs } := by
    unfold State.setReg
    split <;> rfl
  rw [State.advance, nextPc_eq, State.setReg_pc, hreg]
  rfl

/-! ### `read` (rule R282) -/

/-- The bytes delivered, as far as they count, lie at the buffer; every other byte is as before. -/
theorem writeBytes_take {m : Memory} (hm : Memory.wf m) (a : Addr) (bytes : List Byte) {n : Nat} (hn : n ≤ 2 ^ 64) :
    (∀ (i : Nat) (b : Byte), i < min n bytes.length → bytes[i]? = some b →
      Memory.byteAt (Memory.writeBytes m a (bytes.take n)) (Memory.cell a i) = b) ∧
    ∀ k, (∀ i, i < min n bytes.length → k ≠ Memory.cell a i) →
      Memory.byteAt (Memory.writeBytes m a (bytes.take n)) k = Memory.byteAt m k := by
  have hlength : (bytes.take n).length = min n bytes.length := List.length_take
  refine ⟨fun i b hi hb => ?_, fun k hk => ?_⟩
  · rw [Memory.byteAt_writeBytes _ m a i hm.1 (by omega) (hlength ▸ hi), List.getElem_take]
    exact (List.getElem?_eq_some_iff.1 hb).2
  · exact Memory.byteAt_writeBytes_other _ m a k hm.1 (hlength ▸ hk)

/-- The size of a buffer is a 64-bit number. -/
theorem blockAt_nbyte_le (s : State) (p : Addr) : (blockAt s p).nbyte ≤ 2 ^ 64 :=
  (datum_lt s.mem (p + 16#64) 8).le

/-- Settles O56: the three answers of the environment to a `read`. -/
theorem trapRead : Obligations.TrapRead := by
  intro x y z s hm hread hblock
  have hnbyte := blockAt_nbyte_le s (s.reg y)
  rw [exec_trap_read hread hblock]
  generalize blockAt s (s.reg y) = req at hnbyte ⊢
  refine ⟨serveRead_waits s req z, fun e hanswer => ?_, fun bytes k hanswer hk hexist => ?_⟩
  · refine ⟨_, serveRead_failed s req z e hanswer, registersAfter_setReg_advance (by simp) z _,
      sameMemory_of_mem_eq (by simp), ?_⟩
    rw [setReg_advance_eq]
    simp [tookReadAnswer_readAnswers]
  · subst hk
    obtain ⟨hstored, hkept⟩ := writeBytes_take hm req.buf bytes hnbyte
    refine ⟨_, serveRead_delivered s req z bytes hanswer hexist, ?_, ?_, ?_, ?_⟩
    · rw [← pat64_natCast]
      exact registersAfter_setReg_advance (by simp) z _
    · simpa using hstored
    · simpa using hkept
    · rw [setReg_advance_eq]
      simp [tookReadAnswer_readAnswers]

/-! ### `write` (rule R283) -/

theorem Memory.take_readBytes (m : Memory) (a : Addr) (n k : Nat) :
    (Memory.readBytes m a n).take k = Memory.readBytes m a (min k n) := by
  rw [Memory.readBytes, ← List.map_take, List.take_range, Memory.readBytes]

/-- Settles O57: the three answers of the environment to a `write`. -/
theorem trapWrite : Obligations.TrapWrite := by
  intro x y z s data hwrite hblock hexist hdata
  rw [exec_trap_write hwrite hblock]
  generalize blockAt s (s.reg y) = req at hexist hdata ⊢
  subst hdata
  refine ⟨serveWrite_waits s req z hexist, fun e hanswer => ?_, fun count k hanswer hk => ?_⟩
  · refine ⟨_, serveWrite_failed s req z e hexist hanswer, registersAfter_setReg_advance (by simp) z _, ?_⟩
    rw [setReg_advance_eq]
    simp [tookWriteAnswer_writeAnswers]
  · have htake : (Memory.readBytes s.mem req.buf req.nbyte).take k = Memory.readBytes s.mem req.buf k := by
      rw [Memory.take_readBytes, min_eq_left (hk ▸ min_le_right ..)]
    subst hk
    refine ⟨_, serveWrite_accepted s req z count hexist hanswer, ?_, ?_⟩
    · rw [← pat64_natCast]
      exact registersAfter_setReg_advance (by simp) z _
    · rw [setReg_advance_eq, htake]
      simp [tookWriteAnswer_writeAnswers]

end Sys2Proof.Machine
end

section
/-! The faults of the instructions that name a pair or a triple of registers (rules R101, R106 to R109, R112, R113, R301): each
operation once, in the order of its checks (rule R302), on a first operand that is a register or an immediate. -/

open Sys2Proof Sys2Proof.Machine

namespace Sys2Proof.Machine

/-! ### Register numbers above 255 -/

section RegisterOverflow

variable {s : State} {y z : Reg} (hpolicy : s.params.regnumOverflow = .fault)
include hpolicy

theorem mulBy_registerOverflow (hz : 255 < z.toNat + 1) (w : BitVec 32) (a : Quad) :
    s.mulBy w a y z = .fault (.registerIndexOverflow s.pc w) := by
  rw [State.mulBy, regPlus_none s z 1 hz hpolicy, raise]

theorem idivBy_registerOverflow (hz : 255 < z.toNat + 1) (w : BitVec 32) (a : Quad) :
    s.idivBy w a y z = .fault (.registerIndexOverflow s.pc w) := by
  rw [State.idivBy, regPlus_none s z 1 hz hpolicy, raise]

/-- `divq` completes its three register numbers before it looks at the divisor. -/
theorem divBy_registerOverflow (hyz : 255 < y.toNat + 1 ∨ 255 < z.toNat + 2) (w : BitVec 32) (a : Quad) :
    s.divBy w a y z = .fault (.registerIndexOverflow s.pc w) := by
  unfold State.divBy
  split
  · rename_i hy1 _ hz2
    rcases hyz with hy | hz
    · rw [regPlus_none s y 1 hy hpolicy] at hy1; cases hy1
    · rw [regPlus_none s z 2 hz hpolicy] at hz2; cases hz2
  · rfl

end RegisterOverflow

/-- The number after register `r` is above 255 for the last register only. -/
theorem add_one_le_iff_ne_last (r : Reg) : r.toNat + 1 ≤ 255 ↔ r ≠ 255#8 := by
  rw [ne_eq, ← BitVec.toNat_inj, BitVec.toNat_ofNat]
  omega

/-- The second number after register `r` is in range below the last but one. -/
theorem add_two_le_iff_lt (r : Reg) : r.toNat + 2 ≤ 255 ↔ r < 254#8 := by
  rw [BitVec.lt_def, BitVec.toNat_ofNat]
  omega

/-! ### The overflow of the signed quotient -/

/-- -2^63 by -1 is 2^63, which no signed quad holds (rule R112). -/
theorem idivBy_min_by_negOne {s : State} {y z : Reg} (hz : z.toNat + 1 ≤ 255 ∨ s.params.regnumOverflow = .wrap256)
    (hfault : s.params.idivOverflow = .fault) (hmin : s.reg y = BitVec.intMin 64) {a : Quad} (ha : a = -1#64)
    (w : BitVec 32) : s.idivBy w a y z = .fault (.divideOverflow s.pc w) := by
  subst ha
  have hbig : idivQuotient (s.reg y).toInt (-1#64).toInt > 2 ^ 63 - 1 := by rw [hmin]; decide
  exact idivBy_overflow s w _ y z hz (by decide) ⟨hbig, hfault⟩

/-- Settles O34: the checks in their order, each on register `x` and on an immediate, whose 0 and -1 are those of the byte. -/
theorem arithmeticFaults : Obligations.ArithmeticFaults := by
  intro x y z s
  refine ⟨fun hpolicy hz => ?_, fun hpolicy hyz => ?_, fun hyz => ?_, fun hz => ?_⟩
  · have hlast : 255 < z.toNat + 1 := by subst hz; decide
    exact ⟨mulBy_registerOverflow hpolicy hlast _ _, mulBy_registerOverflow hpolicy hlast _ _,
      idivBy_registerOverflow hpolicy hlast _ _, idivBy_registerOverflow hpolicy hlast _ _⟩
  · have hnumbers : 255 < y.toNat + 1 ∨ 255 < z.toNat + 2 := by
      rw [← not_le, ← not_le, add_one_le_iff_ne_last, add_two_le_iff_lt, not_not, BitVec.not_lt]
      exact hyz
    exact ⟨divBy_registerOverflow hpolicy hnumbers _ _, divBy_registerOverflow hpolicy hnumbers _ _⟩
  · have hnumbers : (y.toNat + 1 ≤ 255 ∧ z.toNat + 2 ≤ 255) ∨ s.params.regnumOverflow = .wrap256 := by
      rw [add_one_le_iff_ne_last, add_two_le_iff_lt]
      exact hyz.symm
    refine ⟨fun hx => divBy_zero s _ _ y z hnumbers (congrArg BitVec.toNat hx), fun hx => ?_⟩
    exact divBy_zero s _ _ y z hnumbers ((toNat_unsignedImm x).trans (congrArg BitVec.toNat hx))
  · have hnumber : z.toNat + 1 ≤ 255 ∨ s.params.regnumOverflow = .wrap256 := by
      rw [add_one_le_iff_ne_last]
      exact hz.symm
    refine ⟨fun hx => idivBy_zero s _ _ y z hnumber (congrArg BitVec.toInt hx), fun hx => ?_, fun hfault hmin => ?_⟩
    · exact idivBy_zero s _ _ y z hnumber ((toInt_signedImm x).trans (congrArg BitVec.toInt hx))
    · exact ⟨fun hx => idivBy_min_by_negOne hnumber hfault hmin hx _,
        fun hx => idivBy_min_by_negOne hnumber hfault hmin (congrArg signedImm hx) _⟩

end Sys2Proof.Machine
end

section
/-! The instructions that cannot fault (rule R301). -/

open Sys2Proof Sys2Proof.Machine

namespace Sys2Proof.Machine

theorem execGetc_total (x : Reg) (s : State) : ∃ t, exec (.getc x) s = .next t := by
  cases hinput : s.input with
  | nil => exact ⟨s, execGetc_waits hinput x⟩
  | cons b rest => exact ⟨_, execGetc_takes hinput x⟩

/-- Without a data access, `trap` and the six instructions that name a pair of registers are all that can fault, but for a
missing exit cell and a refused pair of `jmp`. -/
theorem exec_total {i : Instr} {s : State} (haccess : dataAccess s i = none)
    (hop : i.opcode ∉ [0x02#8, 0x32#8, 0x33#8, 0x35#8, 0x3A#8, 0x3B#8, 0x3D#8])
    (hhalt : (∃ x, i = .haltReg x) ∨ (∃ x, i = .haltImm x) → s.params.haltExitCell = none)
    (hjmp : ∀ x y, i = .jmpReg x y → x ≠ y ∨ x = 0#8 ∨ s.params.jmpSameReg = .readFirst) :
    ∃ t, exec i s = .next t := by
  cases i with
  | haltReg x => exact ⟨_, haltWith_noCell (hhalt (.inl ⟨x, rfl⟩)) _⟩
  | haltImm c => exact ⟨_, haltWith_noCell (hhalt (.inr ⟨c, rfl⟩)) c⟩
  | jmpReg x y => exact ⟨_, execJmpReg_next (hjmp x y rfl)⟩
  | je | jne | jl | jge | jle | jg | jb | jae | jna | ja => exact ⟨_, jumpIf_eq ..⟩
  | getc x => exact execGetc_total x s
  | trap | mulqReg | mulqImm | divqReg | divqImm | idivqReg | idivqImm => simp [Instr.opcode] at hop
  | addqReg | addqImm | subqReg | subqImm | imulqReg | imulqImm | orq | andq | notq | ldzwq | ldsq | shldwq
  | shlqReg | shlqImm | shrqReg | shrqImm | sarqReg | sarqImm | jmpRel | putcReg | putcImm | nop => exact ⟨_, rfl⟩
  | _ => cases haccess

/-- What can wait is an instruction that advances once it need not. -/
theorem advances_of_waits {s : State} {i : Instr} (h : waits s i) : advances i = true := by
  rcases h with ⟨x, rfl, -⟩ | ⟨x, y, z, rfl, -⟩ <;> rfl

/-- Settles O21: each instruction without a check that can fail answers, and a wait changes no state, as O19 says. -/
theorem namedInstructionsAreTotal : Obligations.NamedInstructionsAreTotal := by
  intro i s haccess hop hhalt hjmp
  obtain ⟨t, hnext⟩ := exec_total haccess hop hhalt hjmp
  refine ⟨t, hnext, fun hwait => ?_⟩
  obtain ⟨hadvance, -⟩ := pcAdvance i s t hnext
  exact (hadvance (advances_of_waits hwait)).1 hwait

end Sys2Proof.Machine
end

section
/-! The launch (rules R33, R331 to R333). -/

open Sys2Proof Sys2Proof.Machine

namespace Sys2Proof.Machine

/-- Settles O13: the image is written to canonical memory, on bytes that exist. -/
theorem launchPlacesTheImage : Obligations.LaunchPlacesTheImage := by
  intro l hwf hmap hlength hexist
  have hinvariant : memoryInvariant (State.launch l) :=
    ⟨Memory.wf_writeBytes l.image l.initMem l.loadBase hwf, inMap_of_mem_writeBytes _ _ _ l.image hmap hexist⟩
  refine ⟨hinvariant, fun i b hb => ?_, fun k hk => ?_, rfl, rfl, rfl, rfl⟩
  · obtain ⟨hi, rfl⟩ := List.getElem?_eq_some_iff.1 hb
    exact Memory.byteAt_writeBytes l.image l.initMem l.loadBase i hwf.1 hlength hi
  · exact Memory.byteAt_writeBytes_other l.image l.initMem l.loadBase k hwf.1 hk

end Sys2Proof.Machine
end

section
/-! The words of rows (rules R63, R79) as the decoder reads them. -/

open Sys2Proof

namespace Sys2Proof

/-- The row's word of 32 bits that encodes a well-formed instruction is read as that instruction. -/
theorem decodeTableWord_encodeWord {i : Instr} (hi : i.wellFormed = true) {w : Nat} (hw : (encodeWord i).toNat = w) :
    decodeTableWord 32 w = some i := by
  subst hw
  have hword : BitVec.ofNat 32 ((encodeWord i).toNat % 2 ^ 32) = encodeWord i := by
    rw [Nat.mod_eq_of_lt (encodeWord i).isLt, BitVec.ofNat_toNat, BitVec.setWidth_eq]
  have hdecode : decode (encode i) = .ok (i, []) := decode_encode_append i [] hi
  simp only [decodeTableWord, hword, wordBytes_encodeWord, hdecode]

/-- Settles O4: each word is the encoding of its instruction; the last has an opcode of the list of rule R80. -/
theorem writtenOutWordsDecode : Obligations.WrittenOutWordsDecode :=
  ⟨decodeTableWord_encodeWord rfl rfl, decodeTableWord_encodeWord rfl rfl, decodeTableWord_encodeWord rfl rfl,
    decodeTableWord_encodeWord rfl rfl, decodeTableWord_encodeWord rfl rfl, decodeTableWord_encodeWord rfl rfl,
    decodeTableWord_encodeWord rfl rfl, decodeTableWord_encodeWord rfl rfl, by decide⟩

end Sys2Proof
end
